-- ==== Sys2Proof/Word.lean ====
section
/-! DEFINITION. The word types of EME-CORE and nothing else: byte, Block, host address.
A Block is held as the 128-bit vector `int(X)` of 00_scope R11: byte 0 is bits 7..0 and byte 15 is bits 127..120. -/

namespace Sys2Proof

/-- A byte, 0 to 255 (00_scope R9). -/
abbrev Byte := BitVec 8

/-- A Block: sixteen bytes on a 128-bit path (00_scope R10), as its integer view (R11). -/
abbrev Block := BitVec 128

/-- A host address: 13 bits, 0x0000 to 0x1FFF (00_scope R8, 20_memory R60, R65). -/
abbrev Addr := BitVec 13

end Sys2Proof
end

