-- ==== Sys2Proof/Syntax.lean ====
section
/-! DEFINITION. The seven commands (30_encoding R93, one constructor per row of spec/opcode_table.json) and the fields of the
one format CMD8 (R92). No command has an operand field (R90, R94). -/

namespace Sys2Proof

/-- The commands of 30_encoding R93. -/
inductive Instr where
  | dbl    -- 0x02 DBL
  | bxor   -- 0x04 BXOR
  | ciphE  -- 0x06 CIPH.E
  | ciphD  -- 0x07 CIPH.D
  | lgen   -- 0x08 LGEN
  | emeE   -- 0x0A EME.E
  | emeD   -- 0x0B EME.D
  deriving DecidableEq, Repr

/-- The three fields of a command byte (30_encoding R92). -/
structure Cmd8 where
  zero4 : BitVec 4
  func  : BitVec 3
  dir   : BitVec 1
  deriving DecidableEq, Repr

end Sys2Proof
end

