-- ==== Sys2Proof/WellFormed.lean ====
section
/-! DEFINITION. Which fields make a legal command byte (30_encoding R92, R95), and the fields of each command (R93). -/

namespace Sys2Proof

/-- ZERO4 "must be 0000; any other value makes the byte illegal" (30_encoding R92). -/
def Cmd8.zero4Ok (f : Cmd8) : Bool := f.zero4 == 0

/-- FUNC 001 to 101 are the functions; 000, 110 and 111 are reserved (30_encoding R92). -/
def Cmd8.funcOk (f : Cmd8) : Bool := f.func != 0 && f.func != 6 && f.func != 7

/-- FUNC 011 (CIPH) and 101 (EME) have a direction. -/
def Cmd8.hasDirection (f : Cmd8) : Bool := f.func == 3 || f.func == 5

/-- DIR "must be 0 for DBL, BXOR and LGEN, which have no direction" (30_encoding R92). -/
def Cmd8.dirOk (f : Cmd8) : Bool := f.dir == 0 || f.hasDirection

/-- The fields of a legal command byte. -/
def Cmd8.wellFormed (f : Cmd8) : Bool := f.zero4Ok && f.funcOk && f.dirOk

/-- The fields of each command (30_encoding R93; spec/opcode_table.json, source_fields). -/
def Instr.fields : Instr → Cmd8
  | .dbl   => ⟨0, 1, 0⟩
  | .bxor  => ⟨0, 2, 0⟩
  | .ciphE => ⟨0, 3, 0⟩
  | .ciphD => ⟨0, 3, 1⟩
  | .lgen  => ⟨0, 4, 0⟩
  | .emeE  => ⟨0, 5, 0⟩
  | .emeD  => ⟨0, 5, 1⟩

/-- A command is well formed when its fields are. Every command is: none has an operand (30_encoding R94). -/
def Instr.wellFormed (i : Instr) : Bool := i.fields.wellFormed

end Sys2Proof
end

