-- ==== Sys2Proof/Decode.lean ====
section
/-! DEFINITION. Decoding a command byte, total and rejecting by name (30_encoding R92, R93, R95, R97), and the encoder. -/

namespace Sys2Proof

/-- Why a byte is none of the seven commands (30_encoding R95). -/
inductive DecodeError where
  | zero4NotZero       -- bits 7:4 are not 0000
  | reservedFunc       -- FUNC is 000, 110 or 111
  | directionNotZero   -- DIR is 1 for DBL, BXOR or LGEN
  deriving DecidableEq, Repr

/-- The fields of a command byte: ZERO4 = bits 7:4, FUNC = bits 3:1, DIR = bit 0 (30_encoding R92). -/
def fieldsOf (v : Byte) : Cmd8 where
  zero4 := v.extractLsb' 4 4
  func  := v.extractLsb' 1 3
  dir   := v.extractLsb' 0 1

/-- The byte with the given fields (30_encoding R92). -/
def byteOfFields (f : Cmd8) : Byte := f.zero4 ++ f.func ++ f.dir

/-- The command a byte selects (30_encoding R93); "DIR is never ignored" (R95). -/
def decode (v : Byte) : Except DecodeError Instr :=
  let f := fieldsOf v
  if !f.zero4Ok then .error .zero4NotZero
  else if !f.funcOk then .error .reservedFunc
  else if !f.dirOk then .error .directionNotZero
  else if f.func = 1 then .ok .dbl
  else if f.func = 2 then .ok .bxor
  else if f.func = 3 then (if f.dir = 0 then .ok .ciphE else .ok .ciphD)
  else if f.func = 4 then .ok .lgen
  else (if f.dir = 0 then .ok .emeE else .ok .emeD)

/-- The byte of a command (30_encoding R93), from its fields. -/
def encode (i : Instr) : Byte := byteOfFields i.fields

/-- The command byte of a table word: bit 0 of the word is bit 0 of the byte. A command is exactly one byte (R97), so a word
whose first `nbits` bits do not fit one byte is no command. -/
def tableByte (nbits w : Nat) : Option Byte :=
  if w % 2 ^ nbits < 256 then some (BitVec.ofNat 8 (w % 2 ^ nbits)) else none

/-- What `decode` reads from an instruction whose bits spec/opcode_table.json numbers as `w`. -/
def decodeTableWord (nbits w : Nat) : Option Instr :=
  match tableByte nbits w with
  | none => none
  | some v =>
    match decode v with
    | .ok i => some i
    | .error _ => none

end Sys2Proof
end

