-- ==== Sys2Proof/Config.lean ====
section
/-! DEFINITION. What is fixed for one instance: the parameters of 00_scope R7 and R8, and the external block cipher. -/

namespace Sys2Proof

/-- The functions `E` (encipher) and `D` (decipher) of the block-cipher capability (00_scope R6, 42_cipher_adapter R135).
Total functions on Blocks and nothing more (R136; 93 U3): the inverse law is `Cipher.Lawful`, taken as a hypothesis where a
rule needs it. The third member of the capability, CBS, is `State.cbs` (log entry 4). -/
structure Cipher where
  E : Block → Block
  D : Block → Block
  deriving Inhabited

/-- The contract of 00_scope R6: `D(E(X)) = X` and `E(D(X)) = X` for every Block. -/
structure Cipher.Lawful (c : Cipher) : Prop where
  decipher_encipher : ∀ X, c.D (c.E X) = X
  encipher_decipher : ∀ X, c.E (c.D X) = X

namespace Config

/-- The cipher wired to this instance for its whole life (45_handle R200). No body: nothing about it can be proved, so
what is proved of the machine holds whatever it is (42_cipher_adapter R135, R136; log entry 5). -/
opaque cipher : Cipher

/-- BLK: bytes in a Block (00_scope R7). -/
abbrev blk : Nat := 16

/-- MAXBLK: the largest block count (00_scope R7). -/
abbrev maxBlk : Nat := 128

/-- BUFBYTES: bytes in IBUF, in OBUF and in the L-table (00_scope R7). -/
abbrev bufBytes : Nat := 2048

/-- TWK: bytes in the tweak (00_scope R7). -/
abbrev twk : Nat := 16

/-- RCONST: the reduction constant of the doubler (00_scope R7). -/
def rconst : Block := 0x87

end Config

end Sys2Proof
end

