-- ==== Sys2Proof/Machine/State.lean ====
section
/-! DEFINITION. The complete state of one EME-CORE instance (10_state R20), the model's own schedule, read transcript and
CBS beside it, and the state after reset (70_reset_and_hazards R251). -/

namespace Sys2Proof.Machine

/-- A byte buffer of 2048 bytes (IBUF, OBUF, the L-table), as pairs (byte offset, byte) in canonical form: see
`Memory.wf` in Ops.lean. -/
abbrev Memory := List Host.Cell

/-- What an offset without a pair reads as. DESIGN CHOICE, unsafe (log entry 7): the spec leaves these bytes to a draw at
reset (70_reset_and_hazards R252). -/
def unlistedByte : Byte := 0x00

/-- The sequencer's phases, in the order of their codes 0 to 17 (10_state R41). Codes 18 to 31 "never occur" and cannot be
written (93 U13; log entry 9). -/
inductive Phase where
  | idle | validate | uDbl | uXor | uCiph | lSeed | lGen | p1 | mpInit | mpAcc | mcEnc | mMask | p2
  | cccInit | cccAcc | cccSt | p3 | finish
  deriving DecidableEq, Repr

/-- The error codes of 60_exceptions R215, `none` for 0x00. "Values 0x09 to 0xFF never occur" (10_state R28) and cannot be
written (log entry 9). -/
inductive Err where
  | none | invalidBlockSize | invalidTweakLength | invalidMessageLength | blockCountOutOfRange | lengthMismatch
  | invalidLength | unsupportedBlockSize | illegalCommand
  deriving DecidableEq, Repr

/-- The values that reset leaves unspecified (70_reset_and_hazards R252: "A model takes these bytes as an argument of
reset (a draw)"). A buffer is given by its bytes as (offset, byte) pairs (log entry 14). -/
structure Draw where
  ibuf : List Host.Cell
  obuf : List Host.Cell
  lt   : List Host.Cell
  ls   : Block
  mp   : Block
  mc   : Block
  m    : Block
  ccc  : Block
  deriving DecidableEq, Repr

/-- The draw in which every unspecified byte is 0x00. -/
def Draw.zero : Draw := ⟨[], [], [], 0, 0, 0, 0, 0⟩

/-- One entry of the schedule: one step of 00_scope R5 (host transaction, sequencer micro-step, reset), or a whole
command at once. -/
inductive Event where
  /-- Host write `(W, addr, data)`: 20_memory R62, 30_encoding R91. -/
  | write (a : Addr) (v : Byte)
  /-- Host read `(R, addr)`: 20_memory R63. -/
  | read (a : Addr)
  /-- One sequencer micro-step: 10_state R40. -/
  | seq
  /-- Reset with its draw: 70_reset_and_hazards R250, R252. -/
  | reset (d : Draw)
  /-- The host writes `v` to CMD and the sequencer runs the command to its end before any other step: `exec` of the
  decoded command in one step. DESIGN CHOICE (log entry 1; 70 R272 allows merged steps). -/
  | command (v : Byte)
  deriving DecidableEq, Repr

@[ext]
structure State where
  /-- IBUF, 2048 bytes (10_state R21). -/
  ibuf : Memory
  /-- OBUF, 2048 bytes of storage (10_state R22). -/
  obuf : Memory
  /-- TWEAK, 16 bytes (10_state R23). -/
  tweak : Block
  /-- TLEN (10_state R24). -/
  tlen : BitVec 8
  /-- MLEN (10_state R25). -/
  mlen : BitVec 16
  /-- STATUS.BUSY (10_state R27). -/
  busy : Bool
  /-- STATUS.DONE (10_state R27). -/
  done : Bool
  /-- STATUS.CFAIL (10_state R27, 45_handle R200). -/
  cfail : Bool
  /-- ERR (10_state R28). -/
  err : Err
  /-- RLEN (10_state R29). -/
  rlen : BitVec 16
  /-- LT, the L-table, 128 Blocks (10_state R30). -/
  lt : Memory
  /-- LS, the running seed (10_state R31). -/
  ls : Block
  /-- MP (10_state R32). -/
  mp : Block
  /-- MC (10_state R33). -/
  mc : Block
  /-- M (10_state R34). -/
  m : Block
  /-- CCC (10_state R35). -/
  ccc : Block
  /-- FUNC (10_state R36). -/
  func : BitVec 3
  /-- DIR (10_state R36): 0 encrypt, 1 decrypt (00_scope R14). -/
  dir : BitVec 1
  /-- MCNT (10_state R37). -/
  mcnt : BitVec 8
  /-- J (10_state R38). -/
  j : BitVec 8
  /-- PHASE (10_state R40). -/
  phase : Phase
  /-- CBS, the block size of the wired capability (00_scope R6). The model's own field: a constant that no step changes
  (log entry 4). -/
  cbs : Nat
  /-- The events still to come, the next one first. The model's own field: the schedule of 10_state R46 (log entry 2). -/
  schedule : List Event
  /-- The bytes host reads have returned, the latest first. The model's own field (log entry 3). -/
  reads : List Byte
  deriving DecidableEq, Repr

/-- Why the sequencer stops. No command and no host transaction raises one; each needs a state that no run reaches
(log entry 8). -/
inductive Fault where
  /-- Raised by a sequencer step in a loop phase whose stated precondition `J < MCNT`, MCNT at most 128, does not hold
  (44_transform section 3: "an invariant, not a check"). Safe: the model stops where the spec says nothing. -/
  | loopBound
  /-- Raised by a sequencer step in VALIDATE or at L_GEN with a FUNC for which the rule names no successor phase
  (45_handle R203, 43_ltable R154). Safe: the model stops where the spec says nothing. -/
  | noDispatch
  deriving DecidableEq, Repr

/-- Why an instruction has no meaning. -/
inductive Refusal where
  /-- Raised by an arm of `exec` whose instruction is not modelled; no arm is such. Safe. -/
  | notModelled (mnemonic : String)
  deriving DecidableEq, Repr

/-- The machine right after reset (70_reset_and_hazards R251) with a 16-byte capability (log entry 4) and the all-zero
draw (log entry 6), and nothing scheduled (log entry 2). The RESET event, for every CBS and every draw, is
`resetWith` in Ops.lean. -/
def State.reset : State where
  ibuf := []
  obuf := []
  tweak := 0
  tlen := 0
  mlen := 0
  busy := false
  done := false
  cfail := false
  err := .none
  rlen := 0
  lt := []
  ls := 0
  mp := 0
  mc := 0
  m := 0
  ccc := 0
  func := 0
  dir := 0
  mcnt := 0
  j := 0
  phase := .idle
  cbs := 16
  schedule := []
  reads := []

end Sys2Proof.Machine
end

