-- ==== Sys2Proof/Machine/Flags.lean ====
section
/-! DEFINITION. The codes of phases and errors, the STATUS byte (10_state R27) and the preconditions VALIDATE checks
(45_handle R203). There are no arithmetic condition codes (10_state R44). -/

namespace Sys2Proof.Machine

/-- The PHASE code of 10_state R41: 5 bits. -/
def Phase.code : Phase → BitVec 5
  | .idle => 0 | .validate => 1 | .uDbl => 2 | .uXor => 3 | .uCiph => 4 | .lSeed => 5 | .lGen => 6 | .p1 => 7
  | .mpInit => 8 | .mpAcc => 9 | .mcEnc => 10 | .mMask => 11 | .p2 => 12 | .cccInit => 13 | .cccAcc => 14
  | .cccSt => 15 | .p3 => 16 | .finish => 17

/-- The byte of an error code (60_exceptions R215). -/
def Err.code : Err → Byte
  | .none => 0x00 | .invalidBlockSize => 0x01 | .invalidTweakLength => 0x02 | .invalidMessageLength => 0x03
  | .blockCountOutOfRange => 0x04 | .lengthMismatch => 0x05 | .invalidLength => 0x06
  | .unsupportedBlockSize => 0x07 | .illegalCommand => 0x08

/-- The STATUS byte a host reads: BUSY | DONE << 1 | CFAIL << 2, bits 7:3 zero (10_state R27, 20_memory R63). -/
def statusByte (s : State) : Byte :=
  (if s.busy then 1 else 0) ||| (if s.done then 2 else 0) ||| (if s.cfail then 4 else 0)

/-- `uses_cipher` (45_handle R203): CIPH, LGEN, EME. -/
def usesCipher (func : BitVec 3) : Bool := func == 3 || func == 4 || func == 5

/-- `uses_tweak` (45_handle R203): EME. -/
def usesTweak (func : BitVec 3) : Bool := func == 5

/-- `uses_length` (45_handle R203): LGEN, EME. -/
def usesLength (func : BitVec 3) : Bool := func == 4 || func == 5

/-- `MLEN div 16`, the block count `m` of a command that reads MLEN (30_encoding R94). -/
def blockCount (s : State) : Nat := s.mlen.toNat / Config.blk

/-- The first check of 45_handle R203 that fails, in the document's order (60_exceptions R218); `none` when all pass. The
clause `MLEN div 16 = 0` can never be the one that fails (90_conflicts C6). -/
def validationError (s : State) : Option Err :=
  if usesCipher s.func && s.cbs != Config.blk then some .invalidBlockSize
  else if usesTweak s.func && s.tlen.toNat != Config.twk then some .invalidTweakLength
  else if usesLength s.func && (s.mlen.toNat == 0 || s.mlen.toNat % Config.blk != 0) then
    some .invalidMessageLength
  else if usesLength s.func && (blockCount s == 0 || decide (blockCount s > Config.maxBlk)) then
    some .blockCountOutOfRange
  else none

end Sys2Proof.Machine
end

