-- ==== Sys2Proof/Machine/Operands.lean ====
section
/-! DEFINITION. The operand units as pure functions: the byte view of a Block (00_scope R9 to R11), the doubler
(40_doubler), the block XOR unit (41_blockxor), the block-cipher adapter (42_cipher_adapter), and the software forms of the
first two on byte sequences, where the two length errors live. -/

namespace Sys2Proof.Machine

/-! ### Blocks and bytes -/

/-- `X[i]`, byte `i` of a Block: bits 8i+7 to 8i (00_scope R10, R11). -/
def byteOf (X : Block) (i : Nat) : Byte := X.extractLsb' (8 * i) 8

/-- `X` with byte `i` replaced by `v`. -/
def setByte (X : Block) (i : Nat) (v : Byte) : Block :=
  (X &&& ~~~((0xFF : Block) <<< (8 * i))) ||| (v.zeroExtend 128 <<< (8 * i))

/-- The Block whose bytes, byte 0 first, are `bs` (00_scope R10, R11). Bytes a short sequence lacks are 0x00; no caller
gives other than sixteen. -/
def blockOfBytes : List Byte → Block
  | [] => 0
  | b :: bs => (blockOfBytes bs <<< 8) ||| b.zeroExtend 128

/-- The sixteen bytes of a Block, byte 0 first. -/
def bytesOfBlock (X : Block) : List Byte := (List.range 16).map (byteOf X)

/-- The bytes of a sequence of Blocks: `C[0] ++ C[1] ++ ...` (44_transform R167 step 9). -/
def bytesOfBlocks (Xs : List Block) : List Byte := Xs.flatMap bytesOfBlock

/-- `m` Blocks read from a byte sequence: Block `j` is bytes 16j to 16j+15 (44_transform R165). -/
def blocksOfBytes : Nat → List Byte → List Block
  | 0, _ => []
  | m + 1, bs => blockOfBytes (bs.take 16) :: blocksOfBytes m (bs.drop 16)

/-! ### The doubler -/

/-- `double` (40_doubler R110, R111): a shift left by one, and RCONST XORed into byte 0 when the top bit, bit 7 of byte 15,
was 1. -/
def double (X : Block) : Block := (X <<< 1) ^^^ (if X.getLsbD 127 then Config.rconst else 0)

/-- The inverse of `double` (40_doubler R113 item 3). -/
def halve (Y : Block) : Block :=
  ((Y ^^^ (if Y.getLsbD 0 then Config.rconst else 0)) >>> 1) ||| (if Y.getLsbD 0 then (1 : Block) <<< 127 else 0)

/-- The software `double` on a byte sequence: "fails with `InvalidLength` if input is not exactly 16 bytes"
(40_doubler R114). No command calls it (log entry 13). -/
def doubleSeq (X : List Byte) : Except Err (List Byte) :=
  if X.length = 16 then .ok (bytesOfBlock (double (blockOfBytes X))) else .error .invalidLength

/-! ### The block XOR unit -/

/-- `X xor Y` on Blocks (00_scope R12, 41_blockxor R125, R127). -/
def blockXor (X Y : Block) : Block := X ^^^ Y

/-- The software `blockXor` on byte sequences: element-wise, "Fails with `LengthMismatch` if the two operands differ in
length" (41_blockxor R125, R127). No command calls it (log entry 13). -/
def blockXorSeq (A B : List Byte) : Except Err (List Byte) :=
  if A.length = B.length then .ok (List.zipWith (· ^^^ ·) A B) else .error .lengthMismatch

/-! ### The block-cipher adapter -/

/-- `BC(d, X)` (42_cipher_adapter R137): `E(X)` when `d = 0`, `D(X)` when `d = 1`. -/
def bc (c : Cipher) (d : BitVec 1) (X : Block) : Block := if d = 0 then c.E X else c.D X

end Sys2Proof.Machine
end

