-- ==== Sys2Proof/Machine/Ops.lean ====
section
/-! DEFINITION. The operations every meaning is built from: buffer bytes and Blocks, the host's reads and writes, issue,
error entry (`fail`), completion (FINISH), reset. -/

namespace Sys2Proof.Machine

/-! ### Buffers -/

/-- The byte at an offset. -/
def Memory.read : Memory → Nat → Byte
  | [], _ => unlistedByte
  | (k, w) :: rest, a => if k = a then w else Memory.read rest a

/-- A buffer with the byte at an offset replaced, in canonical form again: writing `unlistedByte` removes the pair. -/
def Memory.write : Memory → Nat → Byte → Memory
  | [], a, v => if v = unlistedByte then [] else [(a, v)]
  | (k, w) :: rest, a, v =>
    if a < k then (if v = unlistedByte then (k, w) :: rest else (a, v) :: (k, w) :: rest)
    else if a = k then (if v = unlistedByte then rest else (a, v) :: rest)
    else (k, w) :: Memory.write rest a v

/-- Canonical above `lo`: offsets rise strictly from `lo`, stay below 2048, and no pair holds `unlistedByte`. -/
def Memory.wfFrom : Nat → Memory → Bool
  | _, [] => true
  | lo, (k, w) :: rest =>
    decide (lo ≤ k) && decide (k < Config.bufBytes) && w != unlistedByte && Memory.wfFrom (k + 1) rest

/-- The canonical form of a buffer: equal buffers are equal lists. -/
def Memory.wf (mem : Memory) : Bool := Memory.wfFrom 0 mem

/-- The buffer with the given bytes, a later pair overwriting an earlier one and offsets from 2048 on ignored
(log entry 14). -/
def Memory.ofCells (cells : List Host.Cell) : Memory :=
  cells.foldl (fun mem c => if c.1 < Config.bufBytes then Memory.write mem c.1 c.2 else mem) []

/-- The `n` bytes from offset `a` up. -/
def Memory.readBytes (mem : Memory) : Nat → Nat → List Byte
  | _, 0 => []
  | a, n + 1 => Memory.read mem a :: Memory.readBytes mem (a + 1) n

/-- A buffer with the bytes `bs` written from offset `a` up. -/
def Memory.writeBytes : Memory → Nat → List Byte → Memory
  | mem, _, [] => mem
  | mem, a, b :: bs => Memory.writeBytes (Memory.write mem a b) (a + 1) bs

/-- The byte offset of Block `j` in IBUF, OBUF or LT (20_memory R66). -/
def blockOffset (j : Nat) : Nat := Config.blk * j

/-- Block `j` of a buffer: bytes 16j to 16j+15, ascending (20_memory R66). -/
def Memory.block (mem : Memory) (j : Nat) : Block := blockOfBytes (Memory.readBytes mem (blockOffset j) 16)

/-- A buffer with Block `j` replaced (20_memory R66). -/
def Memory.setBlock (mem : Memory) (j : Nat) (X : Block) : Memory :=
  Memory.writeBytes mem (blockOffset j) (bytesOfBlock X)

/-- `IB[j]` (00_scope R13). -/
def ib (s : State) (j : Nat) : Block := Memory.block s.ibuf j

/-- `OB[j]` (00_scope R13). -/
def ob (s : State) (j : Nat) : Block := Memory.block s.obuf j

/-- `LT[j]` (00_scope R13). -/
def ltBlock (s : State) (j : Nat) : Block := Memory.block s.lt j

/-! ### Error entry and completion -/

/-- `fail(code)`, "the only error-entry procedure" (60_exceptions R222). Nothing is saved and control goes to no handler;
there is no return from it (R224): the next issue clears ERR and DONE. -/
def fail (e : Err) (s : State) : State :=
  { s with err := e, rlen := 0, busy := false, done := true, phase := .idle }

/-- Phase FINISH (45_handle R205). ERR is not written. -/
def finish (s : State) : State :=
  { s with rlen := 16 * s.mcnt.zeroExtend 16, busy := false, done := true, phase := .idle }

/-! ### Issue -/

/-- `issue(v)` for a legal byte, the byte of `i` (30_encoding R96): FUNC and DIR are latched from the byte. -/
def issue (i : Instr) (s : State) : State :=
  { s with
    done := false, err := .none, rlen := 0,
    func := (encode i).extractLsb' 1 3, dir := (encode i).extractLsb' 0 1,
    busy := true, phase := .validate }

/-- `issue(v)` for an illegal byte: IllegalCommand (30_encoding R96, 60_exceptions R223). -/
def issueIllegal (s : State) : State :=
  { s with rlen := 0, err := .illegalCommand, done := true }

/-- `issue(v)` (30_encoding R96). -/
def issueByte (v : Byte) (s : State) : State :=
  match decode v with
  | .ok i => issue i s
  | .error _ => issueIllegal s

/-! ### The host port -/

/-- The address of CMD (20_memory R60). -/
def cmdAddr : Addr := 0x1011

/-- `MemWrite(a, 1, v)` (20_memory R62): dropped while BUSY; OBUF, STATUS, ERR, RLEN and the reserved addresses ignore it. -/
def hostWrite (a : Addr) (v : Byte) (s : State) : State :=
  if s.busy then s
  else if a.toNat < 0x0800 then { s with ibuf := Memory.write s.ibuf a.toNat v }
  else if 0x1000 ≤ a.toNat ∧ a.toNat ≤ 0x100F then { s with tweak := setByte s.tweak (a.toNat - 0x1000) v }
  else if a.toNat = 0x1010 then { s with tlen := v }
  else if a.toNat = 0x1011 then issueByte v s
  else if a.toNat = 0x1012 then { s with mlen := (s.mlen &&& 0xFF00) ||| v.zeroExtend 16 }
  else if a.toNat = 0x1013 then { s with mlen := (s.mlen &&& 0x00FF) ||| (v.zeroExtend 16 <<< 8) }
  else s

/-- `obuf_read(o)`, the OBUF gate (20_memory R64). -/
def obufRead (s : State) (o : Nat) : Byte :=
  if s.busy = false ∧ o < s.rlen.toNat then Memory.read s.obuf o else 0x00

/-- `MemRead(a, 1)` (20_memory R63). -/
def hostRead (s : State) (a : Addr) : Byte :=
  if a.toNat < 0x0800 then Memory.read s.ibuf a.toNat
  else if a.toNat < 0x1000 then obufRead s (a.toNat - 0x0800)
  else if a.toNat ≤ 0x100F then byteOf s.tweak (a.toNat - 0x1000)
  else if a.toNat = 0x1010 then s.tlen
  else if a.toNat = 0x1011 then 0x00
  else if a.toNat = 0x1012 then s.mlen.extractLsb' 0 8
  else if a.toNat = 0x1013 then s.mlen.extractLsb' 8 8
  else if a.toNat = 0x1014 then statusByte s
  else if a.toNat = 0x1015 then s.err.code
  else if a.toNat = 0x1016 then s.rlen.extractLsb' 0 8
  else if a.toNat = 0x1017 then s.rlen.extractLsb' 8 8
  else 0x00

/-- A host read as a step: it changes no state (20_memory R63); the byte goes to the host (log entry 3). -/
def recordRead (a : Addr) (s : State) : State := { s with reads := hostRead s a :: s.reads }

/-! ### Reset -/

/-- The RESET event with draw `d` (70_reset_and_hazards R250 to R252; construction, 45_handle R200). -/
def resetWith (d : Draw) (s : State) : State :=
  { s with
    ibuf := Memory.ofCells d.ibuf, obuf := Memory.ofCells d.obuf, lt := Memory.ofCells d.lt,
    ls := d.ls, mp := d.mp, mc := d.mc, m := d.m, ccc := d.ccc,
    tweak := 0, tlen := 0, mlen := 0,
    busy := false, done := false, cfail := s.cbs != 16,
    err := if s.cbs != 16 then .unsupportedBlockSize else .none,
    rlen := 0, func := 0, dir := 0, mcnt := 0, j := 0, phase := .idle }

end Sys2Proof.Machine
end

