-- ==== Sys2Proof/Machine/Phases.lean ====
section
/-! DEFINITION. The sequencer: one operation per phase rule (10_state R41), the micro-step, and the counts of units a phase
rule uses. In every rule the right-hand sides are values before the step (00_scope R13, 70_reset_and_hazards R266). -/

namespace Sys2Proof.Machine

/-- The end of a loop rule: `if J + 1 = MCNT: J <- 0, PHASE <- next, else J <- J + 1`. -/
def advance (next : Phase) (s : State) : State :=
  if s.j.toNat + 1 = s.mcnt.toNat then { s with j := 0, phase := next } else { s with j := s.j + 1 }

/-! ### VALIDATE -/

/-- The phase VALIDATE dispatches to (45_handle R203): FUNC 1, 2, 3 to the unit phases, 4 and 5 to L_SEED. -/
def dispatchPhase (func : BitVec 3) : Phase :=
  if func = 1 then .uDbl else if func = 2 then .uXor else if func = 3 then .uCiph else .lSeed

/-- VALIDATE when all checks pass (45_handle R203). -/
def dispatch (s : State) : State :=
  { s with
    mcnt := if usesLength s.func then BitVec.ofNat 8 (blockCount s) else s.mcnt
    phase := dispatchPhase s.func }

/-- Phase VALIDATE (45_handle R203). -/
def validate (s : State) : State :=
  match validationError s with
  | some e => fail e s
  | none => dispatch s

/-! ### The unit phases -/

/-- Phase U_DBL (40_doubler R116). -/
def uDbl (s : State) : State :=
  { s with obuf := Memory.setBlock s.obuf 0 (double (ib s 0)), mcnt := 1, phase := .finish }

/-- Phase U_XOR (41_blockxor R129). -/
def uXor (s : State) : State :=
  { s with obuf := Memory.setBlock s.obuf 0 (blockXor (ib s 0) (ib s 1)), mcnt := 1, phase := .finish }

/-- Phase U_CIPH (42_cipher_adapter R142). -/
def uCiph (c : Cipher) (s : State) : State :=
  { s with obuf := Memory.setBlock s.obuf 0 (bc c s.dir (ib s 0)), mcnt := 1, phase := .finish }

/-! ### The L-table -/

/-- Phase L_SEED (43_ltable R153): direction 0 whatever DIR is. -/
def lSeed (c : Cipher) (s : State) : State :=
  { s with ls := bc c 0 0, j := 0, phase := .lGen }

/-- Where L_GEN goes after its last iteration (43_ltable R154). -/
def lGenNext (func : BitVec 3) : Phase := if func = 4 then .finish else .p1

/-- Phase L_GEN (43_ltable R154): one iteration; LGEN also exports the entry (R156). -/
def lGen (s : State) : State :=
  advance (lGenNext s.func)
    { s with
      ls := double s.ls
      lt := Memory.setBlock s.lt s.j.toNat (double s.ls)
      obuf := if s.func = 4 then Memory.setBlock s.obuf s.j.toNat (double s.ls) else s.obuf }

/-! ### The transform -/

/-- Phase P1 (44_transform R172). -/
def p1 (c : Cipher) (s : State) : State :=
  advance .mpInit
    { s with
      obuf := Memory.setBlock s.obuf s.j.toNat
        (bc c s.dir (blockXor (ib s s.j.toNat) (ltBlock s s.j.toNat))) }

/-- Phase MP_INIT (44_transform R173). -/
def mpInit (s : State) : State :=
  { s with
    mp := blockXor (ob s 0) s.tweak, j := 1
    phase := if s.mcnt.toNat > 1 then .mpAcc else .mcEnc }

/-- Phase MP_ACC (44_transform R174). -/
def mpAcc (s : State) : State :=
  advance .mcEnc { s with mp := blockXor s.mp (ob s s.j.toNat) }

/-- Phase MC_ENC (44_transform R175): in the command's direction (90_conflicts C4). -/
def mcEnc (c : Cipher) (s : State) : State :=
  { s with mc := bc c s.dir s.mp, phase := .mMask }

/-- Phase M_MASK (44_transform R176). -/
def mMask (s : State) : State :=
  { s with
    m := blockXor s.mp s.mc, j := 1
    phase := if s.mcnt.toNat > 1 then .p2 else .cccInit }

/-- Phase P2 (44_transform R177): the new mask, not the old one, goes into the slot. -/
def p2 (s : State) : State :=
  advance .cccInit
    { s with
      m := double s.m
      obuf := Memory.setBlock s.obuf s.j.toNat (blockXor (ob s s.j.toNat) (double s.m)) }

/-- Phase CCC_INIT (44_transform R178). -/
def cccInit (s : State) : State :=
  { s with
    ccc := blockXor s.mc s.tweak, j := 1
    phase := if s.mcnt.toNat > 1 then .cccAcc else .cccSt }

/-- Phase CCC_ACC (44_transform R179). -/
def cccAcc (s : State) : State :=
  advance .cccSt { s with ccc := blockXor s.ccc (ob s s.j.toNat) }

/-- Phase CCC_ST (44_transform R180). -/
def cccSt (s : State) : State :=
  { s with obuf := Memory.setBlock s.obuf 0 s.ccc, j := 0, phase := .p3 }

/-- Phase P3 (44_transform R182). -/
def p3 (c : Cipher) (s : State) : State :=
  advance .finish
    { s with
      obuf := Memory.setBlock s.obuf s.j.toNat
        (blockXor (bc c s.dir (ob s s.j.toNat)) (ltBlock s s.j.toNat)) }

/-! ### The micro-step -/

/-- The precondition of a loop phase, "an invariant, not a check" (44_transform section 3, 43_ltable R154), with the bound
of MCNT (10_state R37). -/
def loopReady (s : State) : Bool := decide (s.j.toNat < s.mcnt.toNat) && decide (s.mcnt.toNat ≤ Config.maxBlk)

/-- The step of a loop phase, stopped where its precondition does not hold (log entry 8). -/
def loopStep (rule : State → State) (s : State) : Host.Outcome State Fault Refusal :=
  if loopReady s then .next (rule s) else .fault .loopBound

/-- FUNC has a phase to be dispatched to (45_handle R203). -/
def funcDispatches (func : BitVec 3) : Bool := func != 0 && func != 6 && func != 7

/-- One sequencer micro-step: the rule of the current phase (10_state R40, R41). In IDLE no step is enabled, and a
scheduled one changes nothing (log entry 2). -/
def seqStep (c : Cipher) (s : State) : Host.Outcome State Fault Refusal :=
  match s.phase with
  | .idle => .next s
  | .validate => if funcDispatches s.func then .next (validate s) else .fault .noDispatch
  | .uDbl => .next (uDbl s)
  | .uXor => .next (uXor s)
  | .uCiph => .next (uCiph c s)
  | .lSeed => .next (lSeed c s)
  | .lGen => if usesLength s.func then loopStep lGen s else .fault .noDispatch
  | .p1 => loopStep (p1 c) s
  | .mpInit => .next (mpInit s)
  | .mpAcc => loopStep mpAcc s
  | .mcEnc => .next (mcEnc c s)
  | .mMask => .next (mMask s)
  | .p2 => loopStep p2 s
  | .cccInit => .next (cccInit s)
  | .cccAcc => loopStep cccAcc s
  | .cccSt => .next (cccSt s)
  | .p3 => loopStep (p3 c) s
  | .finish => .next (finish s)

/-- `n` micro-steps in a row, stopping at a fault. -/
def seqRun (c : Cipher) : Nat → State → Host.Outcome State Fault Refusal
  | 0, s => .next s
  | n + 1, s =>
    match seqStep c s with
    | .next s' => seqRun c n s'
    | .fault r => .fault r
    | .refused r => .refused r

/-! ### What a phase rule uses -/

/-- Cipher calls of one execution of a phase rule (42_cipher_adapter R138). -/
def cipherCalls : Phase → Nat
  | .uCiph | .lSeed | .p1 | .mcEnc | .p3 => 1
  | _ => 0

/-- Doublings of one execution of a phase rule (40_doubler R118). -/
def doublings : Phase → Nat
  | .uDbl | .lGen | .p2 => 1
  | _ => 0

/-- Block XORs of one execution of a phase rule (41_blockxor R129, R130). -/
def blockXors : Phase → Nat
  | .uXor | .p1 | .mpInit | .mpAcc | .mMask | .p2 | .cccInit | .cccAcc | .p3 => 1
  | _ => 0

/-- The sum of `f` over the phases that `n` micro-steps execute. -/
def countRun (f : Phase → Nat) (c : Cipher) : Nat → State → Nat
  | 0, _ => 0
  | n + 1, s =>
    match seqStep c s with
    | .next s' => f s.phase + countRun f c n s'
    | _ => 0

end Sys2Proof.Machine
end

