-- ==== Sys2Proof/Machine/Command.lean ====
section
/-! DEFINITION. What all commands share: issue, VALIDATE, the command's own phases, FINISH (30_encoding R96, 45_handle R203,
R205), and the number of sequencer steps a command takes (70_reset_and_hazards R272). -/

namespace Sys2Proof.Machine

/-- A command from issue to completion, with `body` the phases between VALIDATE and FINISH. While BUSY the command byte is
dropped (20_memory R62). A command whose validation fails ends there (60_exceptions R222). -/
def command (i : Instr) (body : State → State) (s : State) : State :=
  if s.busy then s
  else
    match validationError (issue i s) with
    | some e => fail e (issue i s)
    | none => finish (body (dispatch (issue i s)))

/-- The phases of an LGEN command (43_ltable R155): L_SEED, L_GEN x m. -/
def tableBody (c : Cipher) (s : State) : State := lGen^[s.mcnt.toNat] (lSeed c s)

/-- The phases of a transform (44_transform R183, R184): L_SEED, L_GEN x m, P1 x m, MP_INIT, MP_ACC x (m-1), MC_ENC,
M_MASK, P2 x (m-1), CCC_INIT, CCC_ACC x (m-1), CCC_ST, P3 x m. -/
def emeBody (c : Cipher) (s : State) : State :=
  let m := s.mcnt.toNat
  let afterPass1 := (p1 c)^[m] (tableBody c s)
  let afterMix := mcEnc c (mpAcc^[m - 1] (mpInit afterPass1))
  let afterPass2 := p2^[m - 1] (mMask afterMix)
  let afterStore := cccSt (cccAcc^[m - 1] (cccInit afterPass2))
  (p3 c)^[m] afterStore

/-- Sequencer steps of a command issued in `s` (70_reset_and_hazards R272). -/
def stepCount (i : Instr) (s : State) : Nat :=
  match validationError (issue i s) with
  | some _ => 1
  | none =>
    match i with
    | .dbl | .bxor | .ciphE | .ciphD => 3
    | .lgen => blockCount s + 3
    | .emeE | .emeD => 6 * blockCount s + 5

end Sys2Proof.Machine
end

