-- ==== Sys2Proof/Machine/Eme.lean ====
section
/-! DEFINITION. The commands EME.E and EME.D. -/

namespace Sys2Proof.Machine

/-- EME.E (44_transform R184). -/
def emeEEffect (c : Cipher) (s : State) : State := command .emeE (emeBody c) s

/-- EME.D (44_transform R185). -/
def emeDEffect (c : Cipher) (s : State) : State := command .emeD (emeBody c) s

/-- The meaning of EME.E (44_transform R184). -/
def execEmeE (s : State) : Host.Outcome State Fault Refusal := .next (emeEEffect Config.cipher s)

/-- The meaning of EME.D (44_transform R185). -/
def execEmeD (s : State) : Host.Outcome State Fault Refusal := .next (emeDEffect Config.cipher s)

end Sys2Proof.Machine
end

