-- ==== Sys2Proof/Machine/Table.lean ====
section
/-! DEFINITION. The command LGEN. -/

namespace Sys2Proof.Machine

/-- LGEN (43_ltable R155). -/
def lgenEffect (c : Cipher) (s : State) : State := command .lgen (tableBody c) s

/-- The meaning of LGEN (43_ltable R155). -/
def execLgen (s : State) : Host.Outcome State Fault Refusal := .next (lgenEffect Config.cipher s)

end Sys2Proof.Machine
end

