-- ==== Sys2Proof/Machine/Unit.lean ====
section
/-! DEFINITION. The unit commands DBL, BXOR, CIPH.E and CIPH.D. Each has its effect as a function of the cipher, and its
meaning, which is that effect with the instance's own cipher. -/

namespace Sys2Proof.Machine

/-- DBL (40_doubler R115). -/
def dblEffect (s : State) : State := command .dbl uDbl s

/-- BXOR (41_blockxor R128). -/
def bxorEffect (s : State) : State := command .bxor uXor s

/-- CIPH.E (42_cipher_adapter R140). -/
def ciphEEffect (c : Cipher) (s : State) : State := command .ciphE (uCiph c) s

/-- CIPH.D (42_cipher_adapter R141). -/
def ciphDEffect (c : Cipher) (s : State) : State := command .ciphD (uCiph c) s

/-- The meaning of DBL (40_doubler R115). -/
def execDbl (s : State) : Host.Outcome State Fault Refusal := .next (dblEffect s)

/-- The meaning of BXOR (41_blockxor R128). -/
def execBxor (s : State) : Host.Outcome State Fault Refusal := .next (bxorEffect s)

/-- The meaning of CIPH.E (42_cipher_adapter R140). -/
def execCiphE (s : State) : Host.Outcome State Fault Refusal := .next (ciphEEffect Config.cipher s)

/-- The meaning of CIPH.D (42_cipher_adapter R141). -/
def execCiphD (s : State) : Host.Outcome State Fault Refusal := .next (ciphDEffect Config.cipher s)

end Sys2Proof.Machine
end

