-- ==== Sys2Proof/Machine/Dispatch.lean ====
section
/-! DEFINITION. One arm per command. -/

namespace Sys2Proof.Machine

def exec (i : Instr) (s : State) : Host.Outcome State Fault Refusal :=
  match i with
  | .dbl => Sys2Proof.Machine.execDbl s
  | .bxor => Sys2Proof.Machine.execBxor s
  | .ciphE => Sys2Proof.Machine.execCiphE s
  | .ciphD => Sys2Proof.Machine.execCiphD s
  | .lgen => Sys2Proof.Machine.execLgen s
  | .emeE => Sys2Proof.Machine.execEmeE s
  | .emeD => Sys2Proof.Machine.execEmeD s

end Sys2Proof.Machine
end

