-- ==== Sys2Proof/Machine/Events.lean ====
section
/-! DEFINITION. One step of the whole machine: the next event of the schedule (00_scope R5, 10_state R46), over any cipher and
any meaning of the commands. Step.lean fixes both. -/

namespace Sys2Proof.Machine

/-- The effect of a command with cipher `c`: `exec` is this with `Config.cipher`. -/
def effect (c : Cipher) (i : Instr) (s : State) : State :=
  match i with
  | .dbl => dblEffect s
  | .bxor => bxorEffect s
  | .ciphE => ciphEEffect c s
  | .ciphD => ciphDEffect c s
  | .lgen => lgenEffect c s
  | .emeE => emeEEffect c s
  | .emeD => emeDEffect c s

/-- `exec` over any cipher. -/
def execWith (c : Cipher) (i : Instr) (s : State) : Host.Outcome State Fault Refusal := .next (effect c i s)

/-- One event. A `command` byte that decodes runs that command whole; one that does not is the host's write of it. -/
def applyEvent (c : Cipher) (meaning : Instr → State → Host.Outcome State Fault Refusal) (e : Event) (s : State) :
    Host.Outcome State Fault Refusal :=
  match e with
  | .write a v => .next (hostWrite a v s)
  | .read a => .next (recordRead a s)
  | .seq => seqStep c s
  | .reset d => .next (resetWith d s)
  | .command v =>
    match decode v with
    | .ok i => meaning i s
    | .error _ => .next (hostWrite cmdAddr v s)

/-- One step: the next event of the schedule, or, with nothing scheduled, the sequencer (00_scope R5: "a busy sequencer
eventually takes its next micro-step"; log entry 2). -/
def stepOver (c : Cipher) (meaning : Instr → State → Host.Outcome State Fault Refusal) (s : State) :
    Host.Outcome State Fault Refusal :=
  match s.schedule with
  | [] => seqStep c s
  | e :: rest => applyEvent c meaning e { s with schedule := rest }

/-- The machine's step over any cipher. -/
def stepWith (c : Cipher) (s : State) : Host.Outcome State Fault Refusal := stepOver c (execWith c) s

/-- The state with a command next in its schedule. -/
def placeCommand (v : Byte) (s : State) : State := { s with schedule := .command v :: s.schedule }

end Sys2Proof.Machine
end

