-- ==== Sys2Proof/Machine/HostProgram.lean ====
section
/-! DEFINITION. The host notation of 30_encoding R98 and R99 as schedules: each statement is the list of transactions it
stands for. A sequencer step stands in a schedule where the run gives it one. -/

namespace Sys2Proof.Machine

/-- `WRB a, h`: `WR a, h[0]`, `WR a+1, h[1]`, ..., in ascending address order (R99). -/
def wrb : Addr → List Byte → List Event
  | _, [] => []
  | a, b :: bs => .write a b :: wrb (a + 1) bs

/-- `RDB a, n` (R99). -/
def rdb : Addr → Nat → List Event
  | _, 0 => []
  | a, n + 1 => .read a :: rdb (a + 1) n

/-- A command statement: `WR 0x1011, byte` (R98). `ENC` is `commandStatement .emeE`, `DEC` is `commandStatement .emeD`
(R99). -/
def commandStatement (i : Instr) : List Event := [.write cmdAddr (encode i)]

/-- `SETTWEAK h` (R99). -/
def setTweak (h : List Byte) : List Event := wrb 0x1000 h ++ [.write 0x1010 16]

/-- `SETMLEN n` (R99). -/
def setMlen (n : BitVec 16) : List Event :=
  [.write 0x1012 (n.extractLsb' 0 8), .write 0x1013 (n.extractLsb' 8 8)]

/-- `SETMSG h` (R99). -/
def setMsg (h : List Byte) : List Event := wrb 0x0000 h ++ setMlen (BitVec.ofNat 16 h.length)

/-- `WAIT`: STATUS is read once for each entry of `gaps`, after that many sequencer steps. How many reads it takes "is not
fixed by any rule" (R99): a WAIT of a run is any such list whose last read has BUSY clear (log entry 15). -/
def wait (gaps : List Nat) : List Event := gaps.flatMap fun n => List.replicate n .seq ++ [.read 0x1014]

/-- `RESULT` when `lo + 256 * hi` is `n` (R99; log entry 15). -/
def resultReads (n : Nat) : List Event := [.read 0x1016, .read 0x1017] ++ rdb 0x0800 n

/-- The host's procedure for one call (45_handle R202) up to the command, which is run whole. -/
def callEvents (tweak msg : List Byte) (i : Instr) : List Event :=
  setTweak tweak ++ setMsg msg ++ [.command (encode i)]

end Sys2Proof.Machine
end

