-- ==== Sys2Proof/Machine/Transform.lean ====
section
/-! DEFINITION. `deriveMultipliers` (43_ltable R150) and `transform` (44_transform R167) as pure functions, written from the
document's steps and not from the sequencer. That the commands compute them is stated in the obligations (R183). -/

namespace Sys2Proof.Machine

/-- The loop of 43_ltable R150, `n` iterations from running seed `ls`: double, then store. -/
def multipliersFrom : Nat → Block → List Block
  | 0, _ => []
  | n + 1, ls => double ls :: multipliersFrom n (double ls)

/-- `deriveMultipliers(m)` (43_ltable R150): the seed is always enciphered, never deciphered (90_conflicts C3). -/
def deriveMultipliers (c : Cipher) (m : Nat) : List Block := multipliersFrom m (c.E 0)

/-- Step 6 on the slots from 1 up (44_transform R167, R169): each iteration doubles the mask, then XORs it in. -/
def maskSlots : Block → List Block → List Block
  | _, [] => []
  | mask, x :: xs => blockXor x (double mask) :: maskSlots (double mask) xs

/-- Steps 2 to 8 of `transform` on the Blocks of a message (44_transform R167). The message of a transform has at least one
Block; the empty case is only there to be total. -/
def transformBlocks (c : Cipher) (T : Block) (P : List Block) (d : BitVec 1) : List Block :=
  let L := deriveMultipliers c P.length                                     -- step 1
  match List.zipWith (fun p l => bc c d (blockXor p l)) P L with            -- step 2
  | [] => []
  | c0 :: cs =>
    let MP := cs.foldl blockXor (blockXor c0 T)                             -- step 3
    let MC := bc c d MP                                                     -- step 4
    let M := blockXor MP MC                                                 -- step 5
    let cs' := maskSlots M cs                                               -- step 6
    let CCC := cs'.foldl blockXor (blockXor MC T)                           -- step 7
    List.zipWith (fun x l => blockXor (bc c d x) l) (CCC :: cs') L          -- step 8

/-- `transform(T, tlen, P, d)` with capability `(cbs, c.E, c.D)` (44_transform R167): the four preconditions in the
document's order, then the nine steps. -/
def transform (cbs : Nat) (c : Cipher) (T : Block) (tlen : Nat) (P : List Byte) (d : BitVec 1) :
    Except Err (List Byte) :=
  if cbs ≠ Config.blk then .error .invalidBlockSize
  else if tlen ≠ Config.twk then .error .invalidTweakLength
  else if P.length = 0 ∨ P.length % Config.blk ≠ 0 then .error .invalidMessageLength
  else if P.length / Config.blk = 0 ∨ P.length / Config.blk > Config.maxBlk then .error .blockCountOutOfRange
  else .ok (bytesOfBlocks (transformBlocks c T (blocksOfBytes (P.length / Config.blk) P) d))

end Sys2Proof.Machine
end

