-- ==== Sys2Proof/Safety.lean ====
section
/-! DEFINITION. The state invariant of EME-CORE and what a safe run is. -/

namespace Sys2Proof.Machine

/-- What the phase rules' stated preconditions say of the sequencer's own registers in each phase: FUNC fits the phase
(45_handle R203), the cipher is used only when CBS is 16 (42_cipher_adapter R137), MCNT is MLEN div 16 for a command that reads
MLEN (10_state R37), `J < MCNT` in every loop phase (44_transform section 3), and J is 0 where a command can end (R38). -/
def sequencerOk (s : State) : Bool :=
  let lengthOk := usesLength s.func && s.cbs == 16 && s.mlen.toNat == 16 * s.mcnt.toNat && decide (1 ≤ s.mcnt.toNat)
  let emeOk := lengthOk && s.func == 5
  let inLoop := decide (s.j.toNat < s.mcnt.toNat)
  let inTail := inLoop && decide (1 ≤ s.j.toNat)
  match s.phase with
  | .idle => s.j == 0
  | .validate => funcDispatches s.func && s.j == 0
  | .uDbl => s.func == 1 && s.j == 0
  | .uXor => s.func == 2 && s.j == 0
  | .uCiph => s.func == 3 && s.cbs == 16 && s.j == 0
  | .lSeed => lengthOk
  | .lGen => lengthOk && inLoop
  | .p1 => emeOk && inLoop
  | .mpInit => emeOk
  | .mpAcc => emeOk && inTail
  | .mcEnc => emeOk
  | .mMask => emeOk
  | .p2 => emeOk && inTail
  | .cccInit => emeOk
  | .cccAcc => emeOk && inTail
  | .cccSt => emeOk
  | .p3 => emeOk && inLoop
  | .finish => decide (1 ≤ s.mcnt.toNat) && s.j == 0

/-- The invariant: the spec's own statements about every state (10_state R27, R28, R29, R36 to R38; 60_exceptions R219), and
the canonical form of the buffers. -/
structure Inv (s : State) : Prop where
  /-- The buffers are canonical. -/
  ibuf_wf : Memory.wf s.ibuf = true
  obuf_wf : Memory.wf s.obuf = true
  lt_wf : Memory.wf s.lt = true
  /-- "`BUSY = 1` if and only if `PHASE != IDLE`" (10_state R27). -/
  busy_iff : s.busy = true ↔ s.phase ≠ .idle
  /-- "`BUSY = 1` implies `DONE = 0`"; ERR and RLEN are 0 while BUSY (10_state R27, R28, R29). -/
  busy_clear : s.busy = true → s.done = false ∧ s.err = .none ∧ s.rlen = 0
  /-- CFAIL says whether CBS is 16 (10_state R27, 45_handle R200). -/
  cfail_iff : s.cfail = true ↔ s.cbs ≠ 16
  /-- "`ERR != 0` and `BUSY = 0` implies `DONE = 1` or (`CFAIL = 1` and no command was issued since reset)" (10_state R27). -/
  err_done : s.err ≠ .none → s.busy = false → s.done = true ∨ (s.cfail = true ∧ s.err = .unsupportedBlockSize)
  /-- The two errors no rule raises (60_exceptions R219). -/
  err_raised : s.err ≠ .lengthMismatch ∧ s.err ≠ .invalidLength
  /-- RLEN is in {0, 16, 32, ..., 2048} (10_state R29). -/
  rlen_range : s.rlen.toNat % 16 = 0 ∧ s.rlen.toNat ≤ 2048
  /-- MCNT is at most 128 (10_state R37). -/
  mcnt_le : s.mcnt.toNat ≤ 128
  /-- J is at most 127 (10_state R38). -/
  j_le : s.j.toNat ≤ 127
  /-- DIR is 1 only for a command that has a direction (30_encoding R92). -/
  dir_ok : s.dir = 0 ∨ s.func = 3 ∨ s.func = 5
  /-- The sequencer's registers fit its phase. -/
  sequencer : sequencerOk s = true

/-- A safe run: the machine never stops with a fault or a refusal, whatever is scheduled ("There is no hang and no stuck
state", 00_scope section 4; 70_reset_and_hazards R269). -/
def Safe (s : State) : Prop := ∀ n, ∃ t, Host.Core.run Sys2Proof.core n s = .next t

end Sys2Proof.Machine
end

