-- ==== Sys2Proof/Certificates/Slice0/Obligations.lean ====
section
/-! DEFINITION. The statements about EME-CORE, in the order of the spec's files. A statement "for every cipher" is about
`effect c`, `seqStep c` and `seqRun c`; `exec` and `step` are these with the instance's own cipher (`StepRunsDecodedCommand`). -/

open Sys2Proof Sys2Proof.Machine

/-! ### Encoding (30_encoding) -/

/-- R93: the seven bytes, written out, decode to the seven commands and encode back, also as table words. -/
def Obligations.CommandBytesDecode : Prop :=
  decode 0x02 = .ok .dbl ∧ decode 0x04 = .ok .bxor ∧ decode 0x06 = .ok .ciphE ∧ decode 0x07 = .ok .ciphD ∧
  decode 0x08 = .ok .lgen ∧ decode 0x0A = .ok .emeE ∧ decode 0x0B = .ok .emeD ∧
  ∀ i, decode (encode i) = .ok i ∧ decodeTableWord 8 (encode i).toNat = some i

/-- R95: 7 legal bytes, 249 illegal ones; a byte means at most one command; every illegal byte is answered alike, with
IllegalCommand and no command started. -/
def Obligations.SevenBytesAreCommands : Prop :=
  ∀ v : Byte,
    ((∃ i, decode v = .ok i) ↔
      v = 0x02 ∨ v = 0x04 ∨ v = 0x06 ∨ v = 0x07 ∨ v = 0x08 ∨ v = 0x0A ∨ v = 0x0B) ∧
    (∀ i, decode v = .ok i ↔ encode i = v) ∧
    ((∀ i, decode v ≠ .ok i) → ∀ s, issueByte v s = { s with rlen := 0, err := .illegalCommand, done := true })

/-- R215 and R41: the error codes a host reads, and the phase codes. -/
def Obligations.ErrorAndPhaseCodes : Prop :=
  [Err.none, .invalidBlockSize, .invalidTweakLength, .invalidMessageLength, .blockCountOutOfRange, .lengthMismatch,
    .invalidLength, .unsupportedBlockSize, .illegalCommand].map Err.code = [0, 1, 2, 3, 4, 5, 6, 7, 8] ∧
  [Phase.idle, .validate, .uDbl, .uXor, .uCiph, .lSeed, .lGen, .p1, .mpInit, .mpAcc, .mcEnc, .mMask, .p2, .cccInit,
    .cccAcc, .cccSt, .p3, .finish].map Phase.code = (List.range 18).map (BitVec.ofNat 5)

/-! ### The machine's step -/

/-- A step runs the decoded command: with a command byte next in the schedule, the step is `exec` of what the byte decodes
to at the state without that entry, or the host's write of it when it decodes to nothing; on a busy machine it is dropped;
`withFetchWord` places exactly that (log entries 1 and 10); and `exec` is the command's effect with the instance's own
cipher. -/
def Obligations.StepRunsDecodedCommand : Prop :=
  (∀ (s : State) (v : Byte) (rest : List Event), s.schedule = .command v :: rest →
    (∀ i, decode v = .ok i → step s = exec i { s with schedule := rest }) ∧
    ((∀ i, decode v ≠ .ok i) → step s = .next (hostWrite 0x1011 v { s with schedule := rest }))) ∧
  (∀ (s : State) (i : Instr), step (s.withFetchWord 8 (encode i).toNat) = exec i s) ∧
  (∀ (i : Instr) (s : State), exec i s = .next (effect Config.cipher i s)) ∧
  ∀ (i : Instr) (s : State), s.busy = true → exec i s = .next s

/-! ### The unit commands -/

/-- R115: DBL, from issue to completion, and everything it leaves alone; no condition on CBS, TLEN or MLEN; in three
sequencer steps whatever the cipher. -/
def Obligations.DblDoublesBlockZero : Prop :=
  encode .dbl = 0x02 ∧ ∀ s : State, s.busy = false →
    let t : State :=
      { s with
        obuf := Memory.setBlock s.obuf 0 (double (ib s 0)), rlen := 16, mcnt := 1,
        busy := false, done := true, err := .none, func := 1, dir := 0, phase := .idle }
    exec .dbl s = .next t ∧ ∀ c, seqRun c 3 (issue .dbl s) = .next t

/-- R128: BXOR, from issue to completion, and everything it leaves alone; in three sequencer steps whatever the cipher. -/
def Obligations.BxorXorsBlocksZeroAndOne : Prop :=
  encode .bxor = 0x04 ∧ ∀ s : State, s.busy = false →
    let t : State :=
      { s with
        obuf := Memory.setBlock s.obuf 0 (ib s 0 ^^^ ib s 1), rlen := 16, mcnt := 1,
        busy := false, done := true, err := .none, func := 2, dir := 0, phase := .idle }
    exec .bxor s = .next t ∧ ∀ c, seqRun c 3 (issue .bxor s) = .next t

/-- R140: CIPH.E on success, with everything it leaves alone, in three sequencer steps, and its one error, in one; TLEN
and MLEN are not read. -/
def Obligations.CiphEEnciphersBlockZero : Prop :=
  encode .ciphE = 0x06 ∧ ∀ s : State, s.busy = false →
    (s.cbs = 16 →
      let t : State :=
        { s with
          obuf := Memory.setBlock s.obuf 0 (Config.cipher.E (ib s 0)), rlen := 16, mcnt := 1,
          busy := false, done := true, err := .none, func := 3, dir := 0, phase := .idle }
      exec .ciphE s = .next t ∧ seqRun Config.cipher 3 (issue .ciphE s) = .next t) ∧
    (s.cbs ≠ 16 →
      let t : State :=
        { s with
          rlen := 0, busy := false, done := true, err := .invalidBlockSize, func := 3, dir := 0, phase := .idle }
      exec .ciphE s = .next t ∧ ∀ c, seqRun c 1 (issue .ciphE s) = .next t)

/-- R141: CIPH.D on success, with everything it leaves alone, in three sequencer steps, and its one error, in one; TLEN
and MLEN are not read. -/
def Obligations.CiphDDeciphersBlockZero : Prop :=
  encode .ciphD = 0x07 ∧ ∀ s : State, s.busy = false →
    (s.cbs = 16 →
      let t : State :=
        { s with
          obuf := Memory.setBlock s.obuf 0 (Config.cipher.D (ib s 0)), rlen := 16, mcnt := 1,
          busy := false, done := true, err := .none, func := 3, dir := 1, phase := .idle }
      exec .ciphD s = .next t ∧ seqRun Config.cipher 3 (issue .ciphD s) = .next t) ∧
    (s.cbs ≠ 16 →
      let t : State :=
        { s with
          rlen := 0, busy := false, done := true, err := .invalidBlockSize, func := 3, dir := 1, phase := .idle }
      exec .ciphD s = .next t ∧ ∀ c, seqRun c 1 (issue .ciphD s) = .next t)

/-- What the host reads after a unit command, whatever the cipher: the sixteen result bytes at 0x0800 to 0x080F, and 0x00 in
the rest of OBUF (R115, R128, R140, R141 through R63, R64). -/
def Obligations.HostReadsUnitResult : Prop :=
  ∀ (c : Cipher) (s : State) (a : Addr), Inv s → s.busy = false → s.cbs = 16 →
    0x0800 ≤ a.toNat → a.toNat ≤ 0x0FFF →
    (hostRead (effect c .dbl s) a =
      if a.toNat ≤ 0x080F then byteOf (double (ib s 0)) (a.toNat - 0x0800) else 0) ∧
    (hostRead (effect c .bxor s) a =
      if a.toNat ≤ 0x080F then byteOf (ib s 0) (a.toNat - 0x0800) ^^^ byteOf (ib s 1) (a.toNat - 0x0800) else 0) ∧
    (hostRead (effect c .ciphE s) a =
      if a.toNat ≤ 0x080F then byteOf (c.E (ib s 0)) (a.toNat - 0x0800) else 0) ∧
    (hostRead (effect c .ciphD s) a =
      if a.toNat ≤ 0x080F then byteOf (c.D (ib s 0)) (a.toNat - 0x0800) else 0)

/-- The frame of DBL, BXOR, CIPH.E and CIPH.D: they store to Block 0 of OBUF only, and to nothing when dropped or failed. -/
def Obligations.UnitCommandsFrame : Prop :=
  ∀ (i : Instr) (s t : State), i = .dbl ∨ i = .bxor ∨ i = .ciphE ∨ i = .ciphD → exec i s = .next t →
    (∀ a, Memory.read t.ibuf a = Memory.read s.ibuf a) ∧
    (∀ a, Memory.read t.lt a = Memory.read s.lt a) ∧
    (∀ a, a < blockOffset 0 ∨ blockOffset 0 + 16 ≤ a → Memory.read t.obuf a = Memory.read s.obuf a) ∧
    ((s.busy = true ∨ ∃ e, validationError (issue i s) = some e) →
      ∀ a, Memory.read t.obuf a = Memory.read s.obuf a) ∧
    t.tweak = s.tweak ∧ t.tlen = s.tlen ∧ t.mlen = s.mlen ∧ t.cfail = s.cfail ∧ t.ls = s.ls ∧ t.mp = s.mp ∧
    t.mc = s.mc ∧ t.m = s.m ∧ t.ccc = s.ccc ∧ t.j = s.j ∧ t.cbs = s.cbs ∧ t.schedule = s.schedule ∧
    t.reads = s.reads

/-! ### LGEN (43_ltable) -/

/-- R155: LGEN on success. Entry `j` of the table and Block `j` of OBUF are `double^(j+1)(E(ZERO))`. -/
def Obligations.LgenBuildsTable : Prop :=
  ∀ s : State, Inv s → s.busy = false → s.cbs = 16 → 16 ≤ s.mlen.toNat → s.mlen.toNat ≤ 2048 →
    s.mlen.toNat % 16 = 0 →
    ∃ t, exec .lgen s = .next t ∧
      (∀ j < s.mlen.toNat / 16,
        ob t j = double^[j + 1] (Config.cipher.E 0) ∧ ltBlock t j = double^[j + 1] (Config.cipher.E 0)) ∧
      t.rlen = s.mlen ∧ t.err = .none ∧ t.busy = false ∧ t.done = true ∧ t.phase = .idle ∧
      t.mcnt.toNat = s.mlen.toNat / 16 ∧ t.j = 0 ∧ t.func = 4 ∧ t.dir = 0

/-- The frame of LGEN: it stores to the first `m` Blocks of OBUF and of the L-table only, and to nothing when dropped or
failed. -/
def Obligations.LgenFrame : Prop :=
  ∀ s t : State, exec .lgen s = .next t →
    (∀ a, Memory.read t.ibuf a = Memory.read s.ibuf a) ∧
    (∀ a, (∀ j < blockCount s, a < blockOffset j ∨ blockOffset j + 16 ≤ a) →
      Memory.read t.obuf a = Memory.read s.obuf a ∧ Memory.read t.lt a = Memory.read s.lt a) ∧
    ((s.busy = true ∨ ∃ e, validationError (issue .lgen s) = some e) →
      ∀ a, Memory.read t.obuf a = Memory.read s.obuf a ∧ Memory.read t.lt a = Memory.read s.lt a) ∧
    t.tweak = s.tweak ∧ t.tlen = s.tlen ∧ t.mlen = s.mlen ∧ t.cfail = s.cfail ∧ t.mp = s.mp ∧ t.mc = s.mc ∧
    t.m = s.m ∧ t.ccc = s.ccc ∧ t.cbs = s.cbs ∧ t.schedule = s.schedule ∧ t.reads = s.reads

/-! ### EME.E and EME.D (44_transform) -/

/-- R184: EME.E on success: OBUF bytes 0 to 16m-1 are `transform(T, 16, P, 0)`. -/
def Obligations.EmeEncryptsMessage : Prop :=
  ∀ s : State, Inv s → s.busy = false → s.cbs = 16 → s.tlen = 16 → 16 ≤ s.mlen.toNat → s.mlen.toNat ≤ 2048 →
    s.mlen.toNat % 16 = 0 →
    ∃ t, exec .emeE s = .next t ∧
      transform 16 Config.cipher s.tweak 16 (Memory.readBytes s.ibuf 0 s.mlen.toNat) 0 =
        .ok (Memory.readBytes t.obuf 0 s.mlen.toNat) ∧
      t.rlen = s.mlen ∧ t.err = .none ∧ t.busy = false ∧ t.done = true ∧ t.phase = .idle ∧
      t.mcnt.toNat = s.mlen.toNat / 16 ∧ t.j = 0 ∧ t.func = 5 ∧ t.dir = 0 ∧
      t.ibuf = s.ibuf ∧ t.tweak = s.tweak ∧ t.tlen = s.tlen ∧ t.mlen = s.mlen

/-- R185: EME.D on success: OBUF bytes 0 to 16m-1 are `transform(T, 16, Q, 1)`. -/
def Obligations.EmeDecryptsMessage : Prop :=
  ∀ s : State, Inv s → s.busy = false → s.cbs = 16 → s.tlen = 16 → 16 ≤ s.mlen.toNat → s.mlen.toNat ≤ 2048 →
    s.mlen.toNat % 16 = 0 →
    ∃ t, exec .emeD s = .next t ∧
      transform 16 Config.cipher s.tweak 16 (Memory.readBytes s.ibuf 0 s.mlen.toNat) 1 =
        .ok (Memory.readBytes t.obuf 0 s.mlen.toNat) ∧
      t.rlen = s.mlen ∧ t.err = .none ∧ t.busy = false ∧ t.done = true ∧ t.phase = .idle ∧
      t.mcnt.toNat = s.mlen.toNat / 16 ∧ t.j = 0 ∧ t.func = 5 ∧ t.dir = 1 ∧
      t.ibuf = s.ibuf ∧ t.tweak = s.tweak ∧ t.tlen = s.tlen ∧ t.mlen = s.mlen

/-- The frame of EME.E and EME.D: they store to the first `m` Blocks of OBUF and of the L-table only, and to nothing when
dropped or failed. -/
def Obligations.EmeCommandsFrame : Prop :=
  ∀ (i : Instr) (s t : State), i = .emeE ∨ i = .emeD → exec i s = .next t →
    (∀ a, Memory.read t.ibuf a = Memory.read s.ibuf a) ∧
    (∀ a, (∀ j < blockCount s, a < blockOffset j ∨ blockOffset j + 16 ≤ a) →
      Memory.read t.obuf a = Memory.read s.obuf a ∧ Memory.read t.lt a = Memory.read s.lt a) ∧
    ((s.busy = true ∨ ∃ e, validationError (issue i s) = some e) →
      ∀ a, Memory.read t.obuf a = Memory.read s.obuf a ∧ Memory.read t.lt a = Memory.read s.lt a) ∧
    t.tweak = s.tweak ∧ t.tlen = s.tlen ∧ t.mlen = s.mlen ∧ t.cfail = s.cfail ∧ t.cbs = s.cbs ∧
    t.schedule = s.schedule ∧ t.reads = s.reads

/-! ### Failed commands -/

/-- R222: what a failed command has changed is exactly STATUS, ERR, RLEN, FUNC, DIR and PHASE, and it takes exactly one
sequencer step. -/
def Obligations.FailedCommandChangesOnlyStatus : Prop :=
  ∀ (i : Instr) (s : State) (e : Err), s.busy = false → validationError (issue i s) = some e →
    let t : State :=
      { s with
        busy := false, done := true, err := e, rlen := 0, func := i.fields.func, dir := i.fields.dir, phase := .idle }
    exec i s = .next t ∧ ∀ c, seqRun c 1 (issue i s) = .next t

/-- R204: the outcome of VALIDATE for EME.E and EME.D, row by row. -/
def Obligations.EmeErrorPrecedence : Prop :=
  ∀ (i : Instr) (s : State), i = .emeE ∨ i = .emeD → s.busy = false →
    (s.cbs ≠ 16 → exec i s = .next (fail .invalidBlockSize (issue i s))) ∧
    (s.cbs = 16 → s.tlen ≠ 16 → exec i s = .next (fail .invalidTweakLength (issue i s))) ∧
    (s.cbs = 16 → s.tlen = 16 → s.mlen.toNat % 16 ≠ 0 ∨ s.mlen = 0 →
      exec i s = .next (fail .invalidMessageLength (issue i s))) ∧
    (s.cbs = 16 → s.tlen = 16 → s.mlen.toNat % 16 = 0 → 2048 < s.mlen.toNat →
      exec i s = .next (fail .blockCountOutOfRange (issue i s))) ∧
    (s.cbs = 16 → s.tlen = 16 → s.mlen.toNat % 16 = 0 → 16 ≤ s.mlen.toNat → s.mlen.toNat ≤ 2048 →
      ∃ t, exec i s = .next t ∧ t.err = .none ∧ t.mcnt.toNat = s.mlen.toNat / 16 ∧
        ∀ c, seqStep c (issue i s) = .next { issue i s with mcnt := t.mcnt, phase := .lSeed })

/-- R155: the errors of LGEN in their order; the tweak length is not checked. -/
def Obligations.LgenErrorPrecedence : Prop :=
  ∀ s : State, s.busy = false →
    (s.cbs ≠ 16 → exec .lgen s = .next (fail .invalidBlockSize (issue .lgen s))) ∧
    (s.cbs = 16 → s.mlen.toNat % 16 ≠ 0 ∨ s.mlen = 0 →
      exec .lgen s = .next (fail .invalidMessageLength (issue .lgen s))) ∧
    (s.cbs = 16 → s.mlen.toNat % 16 = 0 → 2048 < s.mlen.toNat →
      exec .lgen s = .next (fail .blockCountOutOfRange (issue .lgen s)))

/-- R167, R203: `transform` fails with an error exactly when VALIDATE of an EME command does, and with the same one. -/
def Obligations.TransformErrorsAreValidationErrors : Prop :=
  ∀ (c : Cipher) (i : Instr) (s : State) (e : Err), i = .emeE ∨ i = .emeD →
    (validationError (issue i s) = some e ↔
      transform s.cbs c s.tweak s.tlen.toNat (Memory.readBytes s.ibuf 0 s.mlen.toNat) i.fields.dir = .error e)

/-! ### The doubler, the XOR unit and the adapter -/

/-- R110: `double` byte by byte. -/
def Obligations.DoubleBytewise : Prop :=
  ∀ X : Block,
    (byteOf (double X) 0 = (byteOf X 0 <<< 1) ^^^ (if 0x80 ≤ (byteOf X 15).toNat then 0x87 else 0x00)) ∧
    ∀ j, 1 ≤ j → j ≤ 15 → byteOf (double X) j = (byteOf X j <<< 1) ||| (byteOf X (j - 1) >>> 7)

/-- R111: `double` on the little-endian integer view. -/
def Obligations.DoubleIntegerForm : Prop :=
  ∀ X : Block, (double X).toNat = (2 * X.toNat % 2 ^ 128) ^^^ (if 2 ^ 127 ≤ X.toNat then 0x87 else 0)

/-- R112: bit `k` of a Block is the coefficient of `x^k`; `double` multiplies by `x` with `x^128 = x^7 + x^2 + x + 1`. -/
def Obligations.DoubleMultipliesByX : Prop :=
  ∀ (X : Block) (k : Nat), k < 128 →
    (double X).getLsbD k =
      (((k != 0) && X.getLsbD (k - 1)) ^^ (X.getLsbD 127 && (k == 0 || k == 1 || k == 2 || k == 7)))

/-- R113 items 1 to 4 and 6: `double` fixes ZERO, is linear, has the inverse `halve`, reduces exactly when the top bit of
byte 15 is set, and its powers add. -/
def Obligations.DoubleLaws : Prop :=
  double 0 = 0 ∧
  (∀ A B : Block, double (A ^^^ B) = double A ^^^ double B) ∧
  (∀ X : Block, halve (double X) = X) ∧ (∀ Y : Block, double (halve Y) = Y) ∧
  (∀ X : Block, (byteOf X 15).toNat < 0x80 → double X = X <<< 1) ∧
  (∀ X : Block, 0x80 ≤ (byteOf X 15).toNat → double X = (X <<< 1) ^^^ 0x87) ∧
  ∀ (a b : Nat) (X : Block), double^[a] (double^[b] X) = double^[a + b] X

/-- R125 and R114: the software forms of the two units on byte sequences of any length fail on every wrong length, are
element-wise on equal lengths, and agree with the hardware units on 16 bytes. -/
def Obligations.SoftwareFormsAgreeOrFail : Prop :=
  (∀ X : List Byte, X.length ≠ 16 → doubleSeq X = .error .invalidLength) ∧
  (∀ X : Block, doubleSeq (bytesOfBlock X) = .ok (bytesOfBlock (double X))) ∧
  (∀ A B : List Byte, A.length ≠ B.length → blockXorSeq A B = .error .lengthMismatch) ∧
  (∀ A B : List Byte, A.length = B.length →
    ∃ Z, blockXorSeq A B = .ok Z ∧ Z.length = A.length ∧
      ∀ i < A.length, Z[i]? = some (A.getD i 0 ^^^ B.getD i 0)) ∧
  (∀ X Y : Block, blockXorSeq (bytesOfBlock X) (bytesOfBlock Y) = .ok (bytesOfBlock (blockXor X Y))) ∧
  ∀ (X Y : Block) (i : Nat), i < 16 → byteOf (blockXor X Y) i = byteOf X i ^^^ byteOf Y i

/-- R137: the adapter calls `E` in direction 0 and `D` in direction 1, and for a lawful cipher the two invert each other. -/
def Obligations.AdapterDirectionsInvert : Prop :=
  ∀ c : Cipher, (∀ X, bc c 0 X = c.E X ∧ bc c 1 X = c.D X) ∧
    (c.Lawful → ∀ X, bc c 1 (bc c 0 X) = X ∧ bc c 0 (bc c 1 X) = X)

/-! ### The L-table and the transform as functions -/

/-- R152: the closed form of the table; each entry is the doubling of the one before; the table for `m` is the first `m`
entries of any larger one; it is all zero when `E(ZERO)` is. -/
def Obligations.MultipliersClosedForm : Prop :=
  ∀ (c : Cipher) (m : Nat),
    (deriveMultipliers c m).length = m ∧
    (∀ i < m, (deriveMultipliers c m)[i]? = some (double^[i + 1] (c.E 0))) ∧
    (∀ i, i + 1 < m → (deriveMultipliers c m)[i + 1]? = (deriveMultipliers c m)[i]?.map double) ∧
    (∀ n, m ≤ n → (deriveMultipliers c n).take m = deriveMultipliers c m) ∧
    (c.E 0 = 0 → ∀ L ∈ deriveMultipliers c m, L = 0)

/-- R168: the transform as equations. -/
def Obligations.TransformEquations : Prop :=
  ∀ (c : Cipher) (T : Block) (d : BitVec 1) (P : List Block), 1 ≤ P.length →
    let L := fun j => double^[j + 1] (c.E 0)
    let PPP := fun j => bc c d (P.getD j 0 ^^^ L j)
    let MP := (List.range P.length).foldl (fun x j => x ^^^ PPP j) T
    let MC := bc c d MP
    let M0 := MP ^^^ MC
    let CCC := fun j => PPP j ^^^ double^[j] M0
    let CCC0 := (List.range (P.length - 1)).foldl (fun x j => x ^^^ CCC (j + 1)) (MC ^^^ T)
    (transformBlocks c T P d).length = P.length ∧
    (transformBlocks c T P d)[0]? = some (bc c d CCC0 ^^^ L 0) ∧
    ∀ j, 1 ≤ j → j < P.length → (transformBlocks c T P d)[j]? = some (bc c d (CCC j) ^^^ L j)

/-- R171: one block. -/
def Obligations.SingleBlockTransform : Prop :=
  ∀ (c : Cipher) (T P : Block) (d : BitVec 1),
    transformBlocks c T [P] d =
      [bc c d (bc c d (bc c d (P ^^^ double (c.E 0)) ^^^ T) ^^^ T) ^^^ double (c.E 0)]

/-- R190: the round trip, both ways round, for every lawful cipher, every tweak and every message of 1 to 128 Blocks. -/
def Obligations.TransformRoundTrip : Prop :=
  ∀ (c : Cipher) (T : Block) (P : List Byte) (m : Nat), c.Lawful → 1 ≤ m → m ≤ 128 → P.length = 16 * m →
    (∃ Q, transform 16 c T 16 P 0 = .ok Q ∧ transform 16 c T 16 Q 1 = .ok P) ∧
    ∃ Q, transform 16 c T 16 P 1 = .ok Q ∧ transform 16 c T 16 Q 0 = .ok P

/-- R189: for a lawful cipher and a fixed tweak and direction, `transform` is a bijection on the byte strings of length
16m. -/
def Obligations.TransformPermutes : Prop :=
  ∀ (c : Cipher) (T : Block) (d : BitVec 1) (m : Nat), c.Lawful → 1 ≤ m → m ≤ 128 →
    (∀ P, P.length = 16 * m → ∃ Q, transform 16 c T 16 P d = .ok Q ∧ Q.length = 16 * m) ∧
    (∀ P P', P.length = 16 * m → P'.length = 16 * m → transform 16 c T 16 P d = transform 16 c T 16 P' d → P = P') ∧
    ∀ Q : List Byte, Q.length = 16 * m → ∃ P, P.length = 16 * m ∧ transform 16 c T 16 P d = .ok Q

/-- R192: with the identity capability the transform is the identity, for every tweak and direction. -/
def Obligations.IdentityCipherTransform : Prop :=
  ∀ (c : Cipher) (T : Block) (P : List Block) (d : BitVec 1), (∀ X, c.E X = X) → (∀ X, c.D X = X) →
    transformBlocks c T P d = P

/-- R185: EME.D on the result of EME.E, copied back to IBUF, gives the message back, for every lawful cipher. -/
def Obligations.CommandRoundTrip : Prop :=
  ∀ (c : Cipher) (s : State), c.Lawful → Inv s → s.busy = false → s.cbs = 16 → s.tlen = 16 →
    16 ≤ s.mlen.toNat → s.mlen.toNat ≤ 2048 → s.mlen.toNat % 16 = 0 →
    ∀ j < s.mlen.toNat / 16,
      ob (effect c .emeD { effect c .emeE s with ibuf := (effect c .emeE s).obuf }) j = ib s j

/-! ### The sequencer -/

/-- R116, R129, R142: the unit phases. -/
def Obligations.UnitPhaseRules : Prop :=
  ∀ (c : Cipher) (s : State),
    (s.phase = .uDbl → seqStep c s = .next
      { s with obuf := Memory.setBlock s.obuf 0 (double (ib s 0)), mcnt := 1, phase := .finish }) ∧
    (s.phase = .uXor → seqStep c s = .next
      { s with obuf := Memory.setBlock s.obuf 0 (ib s 0 ^^^ ib s 1), mcnt := 1, phase := .finish }) ∧
    (s.phase = .uCiph → seqStep c s = .next
      { s with
        obuf := Memory.setBlock s.obuf 0 (if s.dir = 0 then c.E (ib s 0) else c.D (ib s 0)), mcnt := 1,
        phase := .finish })

/-- R153, R154: the L-table phases. -/
def Obligations.TablePhaseRules : Prop :=
  ∀ (c : Cipher) (s : State),
    (s.phase = .lSeed → seqStep c s = .next { s with ls := c.E 0, j := 0, phase := .lGen }) ∧
    (s.phase = .lGen → s.func = 4 ∨ s.func = 5 → s.j.toNat < s.mcnt.toNat → s.mcnt.toNat ≤ 128 →
      ∃ t, seqStep c s = .next t ∧
        t = { s with
          ls := double s.ls, lt := Memory.setBlock s.lt s.j.toNat (double s.ls),
          obuf := if s.func = 4 then Memory.setBlock s.obuf s.j.toNat (double s.ls) else s.obuf,
          j := t.j, phase := t.phase } ∧
        (s.j.toNat + 1 = s.mcnt.toNat → t.j = 0 ∧ t.phase = if s.func = 4 then .finish else .p1) ∧
        (s.j.toNat + 1 ≠ s.mcnt.toNat → t.j.toNat = s.j.toNat + 1 ∧ t.phase = .lGen))

/-- R173, R175, R176, R178, R180: the phases of the transform that are executed once. -/
def Obligations.TransformSinglePhaseRules : Prop :=
  ∀ (c : Cipher) (s : State),
    (s.phase = .mpInit → seqStep c s = .next
      { s with mp := ob s 0 ^^^ s.tweak, j := 1, phase := if 1 < s.mcnt.toNat then .mpAcc else .mcEnc }) ∧
    (s.phase = .mcEnc → seqStep c s = .next
      { s with mc := if s.dir = 0 then c.E s.mp else c.D s.mp, phase := .mMask }) ∧
    (s.phase = .mMask → seqStep c s = .next
      { s with m := s.mp ^^^ s.mc, j := 1, phase := if 1 < s.mcnt.toNat then .p2 else .cccInit }) ∧
    (s.phase = .cccInit → seqStep c s = .next
      { s with ccc := s.mc ^^^ s.tweak, j := 1, phase := if 1 < s.mcnt.toNat then .cccAcc else .cccSt }) ∧
    (s.phase = .cccSt → seqStep c s = .next
      { s with obuf := Memory.setBlock s.obuf 0 s.ccc, j := 0, phase := .p3 })

/-- R172, R174, R177, R179, R182: the loop phases of the transform, one execution each. -/
def Obligations.TransformLoopPhaseRules : Prop :=
  ∀ (c : Cipher) (s : State), s.j.toNat < s.mcnt.toNat → s.mcnt.toNat ≤ 128 →
    let B := fun X => if s.dir = 0 then c.E X else c.D X
    let k := s.j.toNat
    let ends := fun (t : State) (next : Phase) =>
      (k + 1 = s.mcnt.toNat → t.j = 0 ∧ t.phase = next) ∧
      (k + 1 ≠ s.mcnt.toNat → t.j.toNat = k + 1 ∧ t.phase = s.phase)
    (s.phase = .p1 → ∃ t, seqStep c s = .next t ∧ ends t .mpInit ∧
      t = { s with obuf := Memory.setBlock s.obuf k (B (ib s k ^^^ ltBlock s k)), j := t.j, phase := t.phase }) ∧
    (s.phase = .mpAcc → ∃ t, seqStep c s = .next t ∧ ends t .mcEnc ∧
      t = { s with mp := s.mp ^^^ ob s k, j := t.j, phase := t.phase }) ∧
    (s.phase = .p2 → ∃ t, seqStep c s = .next t ∧ ends t .cccInit ∧
      t = { s with
        m := double s.m, obuf := Memory.setBlock s.obuf k (ob s k ^^^ double s.m), j := t.j, phase := t.phase }) ∧
    (s.phase = .cccAcc → ∃ t, seqStep c s = .next t ∧ ends t .cccSt ∧
      t = { s with ccc := s.ccc ^^^ ob s k, j := t.j, phase := t.phase }) ∧
    (s.phase = .p3 → ∃ t, seqStep c s = .next t ∧ ends t .finish ∧
      t = { s with obuf := Memory.setBlock s.obuf k (B (ob s k) ^^^ ltBlock s k), j := t.j, phase := t.phase })

/-- R203, R205: VALIDATE on success and on failure, and FINISH. -/
def Obligations.ValidateAndFinishPhaseRules : Prop :=
  ∀ (c : Cipher) (s : State),
    (∀ e, s.phase = .validate → s.func ∈ [1, 2, 3, 4, 5] → validationError s = some e →
      seqStep c s = .next { s with err := e, rlen := 0, busy := false, done := true, phase := .idle }) ∧
    (s.phase = .validate → s.func = 1 → seqStep c s = .next { s with phase := .uDbl }) ∧
    (s.phase = .validate → s.func = 2 → seqStep c s = .next { s with phase := .uXor }) ∧
    (s.phase = .validate → s.func = 3 → s.cbs = 16 → seqStep c s = .next { s with phase := .uCiph }) ∧
    (s.phase = .validate → s.func = 4 ∨ s.func = 5 → s.cbs = 16 → (s.func = 5 → s.tlen = 16) →
      s.mlen.toNat % 16 = 0 → 16 ≤ s.mlen.toNat → s.mlen.toNat ≤ 2048 →
      seqStep c s = .next { s with mcnt := BitVec.ofNat 8 (s.mlen.toNat / 16), phase := .lSeed }) ∧
    (s.phase = .finish → ∃ t, seqStep c s = .next t ∧ t.rlen.toNat = 16 * s.mcnt.toNat ∧
      t = { s with rlen := t.rlen, busy := false, done := true, phase := .idle })

/-- R186: the successor relation, collected. The row from IDLE to IDLE is no row of R186, which enables no sequencer step
there: it is the model's choice for a sequencer step scheduled in IDLE (DESIGN CHOICE, log entry 2). -/
def Obligations.SuccessorRelation : Prop :=
  ∀ (c : Cipher) (s t : State), Inv s → seqStep c s = .next t →
    t.phase =
      match s.phase with
      | .idle => .idle
      | .validate =>
        if (validationError s).isSome then .idle
        else if s.func = 1 then .uDbl else if s.func = 2 then .uXor else if s.func = 3 then .uCiph else .lSeed
      | .uDbl | .uXor | .uCiph => .finish
      | .lSeed => .lGen
      | .lGen => if s.j.toNat + 1 < s.mcnt.toNat then .lGen else if s.func = 4 then .finish else .p1
      | .p1 => if s.j.toNat + 1 < s.mcnt.toNat then .p1 else .mpInit
      | .mpInit => if s.mcnt.toNat = 1 then .mcEnc else .mpAcc
      | .mpAcc => if s.j.toNat + 1 < s.mcnt.toNat then .mpAcc else .mcEnc
      | .mcEnc => .mMask
      | .mMask => if s.mcnt.toNat = 1 then .cccInit else .p2
      | .p2 => if s.j.toNat + 1 < s.mcnt.toNat then .p2 else .cccInit
      | .cccInit => if s.mcnt.toNat = 1 then .cccSt else .cccAcc
      | .cccAcc => if s.j.toNat + 1 < s.mcnt.toNat then .cccAcc else .cccSt
      | .cccSt => .p3
      | .p3 => if s.j.toNat + 1 < s.mcnt.toNat then .p3 else .finish
      | .finish => .idle

/-- R183, R272: from issue, the sequencer reaches the command's effect in the number of steps of R272, for every command,
cipher and idle state, and is BUSY until the last of them. -/
def Obligations.SequencerRefinesCommand : Prop :=
  ∀ (c : Cipher) (i : Instr) (s : State), s.busy = false →
    seqRun c (stepCount i s) (issue i s) = .next (effect c i s) ∧
    ∀ n < stepCount i s, ∃ t, seqRun c n (issue i s) = .next t ∧ t.busy = true

/-- The same at the level of transactions: the host's write of a command byte and the sequencer's own steps, one at a time,
give what `exec` gives at once (R62, R96, R183, R272). -/
def Obligations.TransactionRunEqualsExec : Prop :=
  ∀ (i : Instr) (s : State), s.busy = false →
    Host.Core.run Sys2Proof.core (1 + stepCount i s) { s with schedule := [.write 0x1011 (encode i)] } =
      exec i { s with schedule := [] }

/-- R272: sequencer steps, cipher calls, doublings and Block XORs of every command, of one that passes VALIDATE and of one
that fails it. -/
def Obligations.OperationCounts : Prop :=
  ∀ (c : Cipher) (i : Instr) (s : State), s.busy = false →
    let m := s.mlen.toNat / 16
    let run := fun f => countRun f c (stepCount i s) (issue i s)
    let counts := (stepCount i s, run cipherCalls, run doublings, run blockXors)
    (∀ e, validationError (issue i s) = some e → counts = (1, 0, 0, 0)) ∧
    (validationError (issue i s) = none → counts =
      match i with
      | .dbl => (3, 0, 1, 0)
      | .bxor => (3, 0, 0, 1)
      | .ciphE | .ciphD => (3, 1, 0, 0)
      | .lgen => (m + 3, 1, m, 0)
      | .emeE | .emeD => (6 * m + 5, 2 * m + 2, 2 * m - 1, 5 * m))

/-- R269: no hang. From every state of the invariant the sequencer is done after at most 773 of its own steps. -/
def Obligations.BusyCommandCompletes : Prop :=
  ∀ (c : Cipher) (s : State), Inv s → s.busy = true →
    ∃ n ≤ 773, ∃ t, seqRun c n s = .next t ∧ t.busy = false ∧ t.done = true ∧ t.phase = .idle

/-- R21, R23: no sequencer step writes an input register, IBUF, or the schedule's side of the machine. -/
def Obligations.SequencerKeepsInputs : Prop :=
  ∀ (c : Cipher) (s t : State), seqStep c s = .next t →
    t.ibuf = s.ibuf ∧ t.tweak = s.tweak ∧ t.tlen = s.tlen ∧ t.mlen = s.mlen ∧ t.cfail = s.cfail ∧ t.func = s.func ∧
    t.dir = s.dir ∧ t.cbs = s.cbs ∧ t.schedule = s.schedule ∧ t.reads = s.reads

/-- R200, R6: with CBS other than 16 no command and no sequencer step depends on the cipher. -/
def Obligations.WrongBlockSizeNeverCallsCipher : Prop :=
  ∀ (c c' : Cipher) (s : State), s.cbs ≠ 16 →
    (∀ i, effect c i s = effect c' i s) ∧ (Inv s → seqStep c s = seqStep c' s)

/-! ### The host port (20_memory, 30_encoding) -/

/-- R63: a host read, address by address; it changes no state but the host's own record of it. -/
def Obligations.HostReadMap : Prop :=
  ∀ (s : State) (a : Addr) (rest : List Event), s.schedule = .read a :: rest →
    ∃ v, step s = .next { s with schedule := rest, reads := v :: s.reads } ∧
      (a.toNat ≤ 0x07FF → v = Memory.read s.ibuf a.toNat) ∧
      (0x0800 ≤ a.toNat → a.toNat ≤ 0x0FFF →
        v = if s.busy = false ∧ a.toNat - 0x0800 < s.rlen.toNat then Memory.read s.obuf (a.toNat - 0x0800) else 0) ∧
      (0x1000 ≤ a.toNat → a.toNat ≤ 0x100F → v = byteOf s.tweak (a.toNat - 0x1000)) ∧
      (a = 0x1010 → v = s.tlen) ∧
      (a = 0x1011 → v = 0) ∧
      (a = 0x1012 → v = s.mlen.extractLsb' 0 8) ∧
      (a = 0x1013 → v = s.mlen.extractLsb' 8 8) ∧
      (a = 0x1014 → v = BitVec.ofNat 8 (s.busy.toNat + 2 * s.done.toNat + 4 * s.cfail.toNat)) ∧
      (a = 0x1015 → v = s.err.code) ∧
      (a = 0x1016 → v = s.rlen.extractLsb' 0 8) ∧
      (a = 0x1017 → v = s.rlen.extractLsb' 8 8) ∧
      (0x1018 ≤ a.toNat → v = 0)

/-- R62: a host write, dropped while BUSY, else address by address; a write to CMD is an issue (`IssueCommand`). -/
def Obligations.HostWriteMap : Prop :=
  ∀ (s : State) (a : Addr) (v : Byte) (rest : List Event), s.schedule = .write a v :: rest →
    (s.busy = true → step s = .next { s with schedule := rest }) ∧
    (s.busy = false →
      (a.toNat ≤ 0x07FF → step s = .next { s with schedule := rest, ibuf := Memory.write s.ibuf a.toNat v }) ∧
      (0x0800 ≤ a.toNat → a.toNat ≤ 0x0FFF → step s = .next { s with schedule := rest }) ∧
      (0x1000 ≤ a.toNat → a.toNat ≤ 0x100F →
        step s = .next { s with schedule := rest, tweak := setByte s.tweak (a.toNat - 0x1000) v }) ∧
      (a = 0x1010 → step s = .next { s with schedule := rest, tlen := v }) ∧
      (a = 0x1011 → step s = .next (issueByte v { s with schedule := rest })) ∧
      (a = 0x1012 → ∃ w, step s = .next { s with schedule := rest, mlen := w } ∧
        w.extractLsb' 0 8 = v ∧ w.extractLsb' 8 8 = s.mlen.extractLsb' 8 8) ∧
      (a = 0x1013 → ∃ w, step s = .next { s with schedule := rest, mlen := w } ∧
        w.extractLsb' 0 8 = s.mlen.extractLsb' 0 8 ∧ w.extractLsb' 8 8 = v) ∧
      (0x1014 ≤ a.toNat → step s = .next { s with schedule := rest }))

/-- R96, R223: issue, the step of a host write to CMD while not BUSY: of a legal byte, and of an illegal one. -/
def Obligations.IssueCommand : Prop :=
  ∀ (s : State) (v : Byte) (rest : List Event), s.schedule = .write 0x1011 v :: rest → s.busy = false →
    (v ∈ [0x02, 0x04, 0x06, 0x07, 0x08, 0x0A, 0x0B] → step s = .next
      { s with
        schedule := rest, done := false, err := .none, rlen := 0, func := v.extractLsb' 1 3, dir := v.extractLsb' 0 1,
        busy := true, phase := .validate }) ∧
    (v ∉ [0x02, 0x04, 0x06, 0x07, 0x08, 0x0A, 0x0B] → step s = .next
      { s with schedule := rest, rlen := 0, err := .illegalCommand, done := true })

/-- R21 to R25 through R62 and R63: what was written to a read/write register is what a read returns, and no other address
reads differently. -/
def Obligations.HostReadsBackWrites : Prop :=
  ∀ (s : State) (a b : Addr) (v : Byte), Inv s → s.busy = false →
    a.toNat ≤ 0x07FF ∨ (0x1000 ≤ a.toNat ∧ a.toNat ≤ 0x1010) ∨ a = 0x1012 ∨ a = 0x1013 →
    hostRead (hostWrite a v s) b = if b = a then v else hostRead s b

/-- R64: OBUF reads 0x00 while a command runs and after a failed one; after a successful one exactly the first RLEN bytes
are OBUF's. -/
def Obligations.OutputGate : Prop :=
  ∀ (s : State) (a : Addr), 0x0800 ≤ a.toNat → a.toNat ≤ 0x0FFF →
    (s.busy = true → hostRead s a = 0) ∧
    (s.rlen.toNat ≤ a.toNat - 0x0800 → hostRead s a = 0) ∧
    (s.busy = false → a.toNat - 0x0800 < s.rlen.toNat → hostRead s a = Memory.read s.obuf (a.toNat - 0x0800)) ∧
    ∀ (i : Instr) (t : State), s.busy = false → exec i s = .next t → t.err ≠ .none → hostRead t a = 0

/-- R99: SETMSG loads the message: after its transactions IBUF holds it from byte 0 and MLEN its length, and nothing else has
changed. -/
def Obligations.SetMessageLoadsBuffer : Prop :=
  ∀ (h : List Byte) (s : State), Inv s → s.busy = false → h.length ≤ 2048 → s.schedule = setMsg h →
    ∃ t, Host.Core.run Sys2Proof.core (setMsg h).length s = .next t ∧
      Memory.readBytes t.ibuf 0 h.length = h ∧
      (∀ a, h.length ≤ a → Memory.read t.ibuf a = Memory.read s.ibuf a) ∧
      t.mlen.toNat = h.length ∧ t = { s with ibuf := t.ibuf, mlen := t.mlen, schedule := [] }

/-- R202: the host's procedure for one call of `encrypt` or `decrypt`, over every tweak and message: afterwards ERR is 0, RLEN
is the message's length and the host reads `transform` of them from OBUF. -/
def Obligations.HostCallReturnsTransform : Prop :=
  ∀ (tweak msg : List Byte) (m : Nat) (i : Instr) (s : State), Inv s → s.busy = false → s.cbs = 16 →
    i = .emeE ∨ i = .emeD → tweak.length = 16 → 1 ≤ m → m ≤ 128 → msg.length = 16 * m →
    s.schedule = callEvents tweak msg i →
    ∃ t Q, Host.Core.run Sys2Proof.core (callEvents tweak msg i).length s = .next t ∧
      transform 16 Config.cipher (blockOfBytes tweak) 16 msg i.fields.dir = .ok Q ∧
      Q.length = msg.length ∧ t.err = .none ∧ t.rlen.toNat = msg.length ∧ t.busy = false ∧ t.done = true ∧
      ∀ o < msg.length, Q[o]? = some (hostRead t (BitVec.ofNat 13 (0x0800 + o)))

/-- R71, R262: the lock makes interleaving irrelevant. Whatever host reads, writes and command bytes come between the
sequencer's steps of a running command, the machine ends as after those sequencer steps alone, but for the host's record of
its reads. -/
def Obligations.LockMakesInterleavingIrrelevant : Prop :=
  ∀ (evs : List Event) (s t : State), (∀ d, .reset d ∉ evs) → s.schedule = evs ++ [.seq] →
    (∀ n ≤ evs.count .seq, ∃ u, seqRun Config.cipher n s = .next u ∧ u.busy = true) →
    seqRun Config.cipher (evs.count .seq + 1) s = .next t →
    ∃ r, Host.Core.run Sys2Proof.core (evs.length + 1) s = .next { t with schedule := [], reads := r }

/-- R43: statelessness. ERR, RLEN and the readable bytes of OBUF after a command depend on the capability, the command,
TWEAK, TLEN, MLEN and IBUF at issue, and on nothing else. -/
def Obligations.ResultsDependOnInputsOnly : Prop :=
  ∀ (c : Cipher) (i : Instr) (s s' : State), Inv s → Inv s' → s.busy = false → s'.busy = false → s.cbs = s'.cbs →
    s.tweak = s'.tweak → s.tlen = s'.tlen → s.mlen = s'.mlen → s.ibuf = s'.ibuf →
    (effect c i s).err = (effect c i s').err ∧ (effect c i s).rlen = (effect c i s').rlen ∧
    ∀ o, obufRead (effect c i s) o = obufRead (effect c i s') o

/-! ### Reset (70_reset_and_hazards) -/

/-- R251: the value of every piece of state after a reset event, for every CBS and every draw, also while BUSY. -/
def Obligations.ResetSetsEveryRegister : Prop :=
  ∀ (s : State) (d : Draw) (rest : List Event), s.schedule = .reset d :: rest →
    step s = .next
      { ibuf := Memory.ofCells d.ibuf, obuf := Memory.ofCells d.obuf, tweak := 0, tlen := 0, mlen := 0,
        busy := false, done := false, cfail := decide (s.cbs ≠ 16),
        err := if s.cbs = 16 then .none else .unsupportedBlockSize, rlen := 0,
        lt := Memory.ofCells d.lt, ls := d.ls, mp := d.mp, mc := d.mc, m := d.m, ccc := d.ccc,
        func := 0, dir := 0, mcnt := 0, j := 0, phase := .idle,
        cbs := s.cbs, schedule := rest, reads := s.reads }

/-- R200: CBS never changes, and CFAIL changes in no step but a reset. -/
def Obligations.CfailIsSticky : Prop :=
  ∀ s t : State, step s = .next t →
    t.cbs = s.cbs ∧ ((∀ d rest, s.schedule ≠ .reset d :: rest) → t.cfail = s.cfail)

/-! ### Invariants -/

/-- Reset, the initial one and every reset event, establishes the invariant. -/
def Obligations.ResetEstablishesInvariant : Prop :=
  Inv State.reset ∧ ∀ (d : Draw) (s : State), Inv (resetWith d s)

/-- Every step keeps the invariant, whatever is scheduled. -/
def Obligations.StepKeepsInvariant : Prop :=
  ∀ s s' : State, Inv s → step s = .next s' → Inv s'

/-- From a state of the invariant no run stops with a fault or a refusal. -/
def Obligations.InvariantRunsAreSafe : Prop :=
  ∀ s : State, Inv s → Safe s
end

