-- ==== Sys2Proof/Laws/Block.lean ====
section
/-! SUPPORT. The byte view of a Block, the doubler and the XOR unit: what each function answers, bit by bit. -/

namespace Sys2Proof.Machine

theorem getLsbD_byteOf (X : Block) (i k : Nat) :
    (byteOf X i).getLsbD k = (decide (k < 8) && X.getLsbD (8 * i + k)) := by
  simp [byteOf, BitVec.getLsbD_extractLsb']

theorem getLsbD_blockOfBytes (bs : List Byte) (n : Nat) :
    (blockOfBytes bs).getLsbD n = (decide (n < 128) && (bs[n / 8]?.getD 0).getLsbD (n % 8)) := by
  induction bs generalizing n with
  | nil => simp [blockOfBytes]
  | cons b bs ih =>
    simp only [blockOfBytes, BitVec.getLsbD_or, BitVec.getLsbD_shiftLeft, ih, BitVec.getLsbD_setWidth]
    by_cases hn : n < 8
    · have h0 : n / 8 = 0 := by omega
      have hm : n % 8 = n := by omega
      simp [hn, h0, hm]
    · have hd : n / 8 = (n - 8) / 8 + 1 := by omega
      have hm : n % 8 = (n - 8) % 8 := by omega
      have hb : b.getLsbD n = false := BitVec.getLsbD_of_ge _ _ (by omega)
      by_cases h128 : n < 128
      · have h8 : n - 8 < 128 := by omega
        simp [hn, hb, hd, hm, h128, h8]
      · simp [h128, hb]

@[simp] theorem length_bytesOfBlock (X : Block) : (bytesOfBlock X).length = 16 := by simp [bytesOfBlock]

theorem getElem?_bytesOfBlock (X : Block) (i : Nat) :
    (bytesOfBlock X)[i]? = if i < 16 then some (byteOf X i) else none := by
  by_cases h : i < 16 <;> simp [bytesOfBlock, h]

theorem block_ext_bytes {X Y : Block} (h : ∀ i < 16, byteOf X i = byteOf Y i) : X = Y := by
  apply BitVec.eq_of_getLsbD_eq
  intro n hn
  have hb := congrArg (fun b : Byte => b.getLsbD (n % 8)) (h (n / 8) (by omega))
  simp only [getLsbD_byteOf] at hb
  have h8 : n % 8 < 8 := Nat.mod_lt _ (by decide)
  have hd : 8 * (n / 8) + n % 8 = n := Nat.div_add_mod n 8
  simpa [h8, hd] using hb

theorem byteOf_blockOfBytes (bs : List Byte) (i : Nat) (hi : i < 16) :
    byteOf (blockOfBytes bs) i = bs[i]?.getD 0 := by
  apply BitVec.eq_of_getLsbD_eq
  intro k hk
  rw [getLsbD_byteOf, getLsbD_blockOfBytes]
  have h1 : (8 * i + k) / 8 = i := by omega
  have h2 : (8 * i + k) % 8 = k := by omega
  have h3 : 8 * i + k < 128 := by omega
  simp [h1, h2, h3, hk]

@[simp] theorem blockOfBytes_bytesOfBlock (X : Block) : blockOfBytes (bytesOfBlock X) = X := by
  apply block_ext_bytes
  intro i hi
  rw [byteOf_blockOfBytes _ _ hi, getElem?_bytesOfBlock]
  simp [hi]

theorem bytesOfBlock_blockOfBytes (bs : List Byte) (h : bs.length = 16) : bytesOfBlock (blockOfBytes bs) = bs := by
  apply List.ext_getElem?
  intro i
  rw [getElem?_bytesOfBlock]
  by_cases hi : i < 16
  · rw [byteOf_blockOfBytes _ _ hi]
    simp [hi, h]
  · simp [hi, h]

theorem byteOf_setByte (X : Block) (i k : Nat) (v : Byte) (hi : i < 16) (hk : k < 16) :
    byteOf (setByte X i v) k = if k = i then v else byteOf X k := by
  apply BitVec.eq_of_getLsbD_eq
  intro n hn
  have hff : ∀ q, (255#128).getLsbD q = decide (q < 8) := by
    intro q
    by_cases hq : q < 8
    · have : ∀ q < 8, (255#128).getLsbD q = true := by decide
      simp [hq, this]
    · have h : (255#128) = (255#8).setWidth 128 := by decide
      rw [h, BitVec.getLsbD_setWidth, BitVec.getLsbD_of_ge (255#8) q (by omega)]
      simp [hq]
  rw [getLsbD_byteOf]
  simp only [setByte, BitVec.getLsbD_or, BitVec.getLsbD_and, BitVec.getLsbD_not, BitVec.getLsbD_shiftLeft,
    BitVec.getLsbD_setWidth]
  have h1 : 8 * k + n < 128 := by omega
  by_cases hki : k = i
  · subst hki
    have h2 : ¬ (8 * k + n < 8 * k) := by omega
    have h4 : 8 * k + n - 8 * k = n := by omega
    have h5 : n < 128 := by omega
    simp [h1, h2, h4, hn, h5, hff]
  · rw [if_neg hki, getLsbD_byteOf]
    by_cases hlt : 8 * k + n < 8 * i
    · simp [h1, hlt, hn]
    · have h4 : ¬ (8 * k + n - 8 * i < 8) := by omega
      have hv : v.getLsbD (8 * k + n - 8 * i) = false := BitVec.getLsbD_of_ge _ _ (by omega)
      simp [h1, hlt, hn, h4, hv, hff]

/-! ### The doubler -/

theorem getLsbD_rconst (n : Nat) :
    Config.rconst.getLsbD n = (decide (n = 0) || decide (n = 1) || decide (n = 2) || decide (n = 7)) := by
  by_cases h : n < 8
  · have : ∀ n < 8, Config.rconst.getLsbD n =
      (decide (n = 0) || decide (n = 1) || decide (n = 2) || decide (n = 7)) := by decide
    exact this n h
  · have h0 : Config.rconst = (0x87#8).setWidth 128 := by decide
    rw [h0, BitVec.getLsbD_setWidth, BitVec.getLsbD_of_ge (0x87#8) n (by omega)]
    have : n ≠ 0 ∧ n ≠ 1 ∧ n ≠ 2 ∧ n ≠ 7 := by omega
    simp [this]

theorem double_zero : double 0 = 0 := by decide

/-- The shift of `double` is linear over XOR. -/
theorem shiftLeft_one_xor (A B : Block) : (A ^^^ B) <<< 1 = (A <<< 1) ^^^ (B <<< 1) := by
  apply BitVec.eq_of_getLsbD_eq
  intro n hn
  by_cases h : n < 1 <;> simp [h, hn]

/-! ### The XOR unit -/

@[simp] theorem blockXor_self (A : Block) : blockXor A A = 0 := by simp [blockXor]
@[simp] theorem blockXor_zero (A : Block) : blockXor A 0 = A := by simp [blockXor]
theorem blockXor_left_comm (A B C : Block) : blockXor A (blockXor B C) = blockXor B (blockXor A C) := by
  simp only [blockXor]; rw [← BitVec.xor_assoc, BitVec.xor_comm A B, BitVec.xor_assoc]

theorem byteOf_xor (A B : Block) (i : Nat) : byteOf (A ^^^ B) i = byteOf A i ^^^ byteOf B i := by
  apply BitVec.eq_of_getLsbD_eq
  intro k hk
  rw [getLsbD_byteOf, BitVec.getLsbD_xor, BitVec.getLsbD_xor, getLsbD_byteOf, getLsbD_byteOf]
  simp [hk]

@[simp] theorem bc_encrypt (c : Cipher) (X : Block) : bc c 0 X = c.E X := rfl
@[simp] theorem bc_decrypt (c : Cipher) (X : Block) : bc c 1 X = c.D X := rfl

end Sys2Proof.Machine
end

