-- ==== Sys2Proof/Laws/Memory.lean ====
section
/-! SUPPORT. The buffers: read after write, and every operation keeps the canonical form. -/

namespace Sys2Proof.Machine

theorem Memory.wfFrom_mono {lo lo' : Nat} {mem : Memory} (h : Memory.wfFrom lo mem = true) (hl : lo' ≤ lo) :
    Memory.wfFrom lo' mem = true := by
  cases mem with
  | nil => rfl
  | cons c rest =>
    simp only [Memory.wfFrom, Bool.and_eq_true, decide_eq_true_eq] at h ⊢
    exact ⟨⟨⟨by omega, h.1.1.2⟩, h.1.2⟩, h.2⟩

/-- Below the first offset of a canonical buffer nothing is listed. -/
theorem Memory.read_of_wfFrom {lo : Nat} {mem : Memory} (h : Memory.wfFrom lo mem = true) {a : Nat} (ha : a < lo) :
    Memory.read mem a = unlistedByte := by
  induction mem generalizing lo with
  | nil => rfl
  | cons c rest ih =>
    simp only [Memory.wfFrom, Bool.and_eq_true, decide_eq_true_eq] at h
    have hne : c.1 ≠ a := by omega
    simp only [Memory.read, hne, if_false]
    exact ih h.2 (by omega)

theorem Memory.wfFrom_write {lo : Nat} {mem : Memory} (h : Memory.wfFrom lo mem = true) {a : Nat} (v : Byte)
    (hlo : lo ≤ a) (ha : a < Config.bufBytes) : Memory.wfFrom lo (Memory.write mem a v) = true := by
  induction mem generalizing lo with
  | nil =>
    by_cases hv : v = unlistedByte <;> simp [Memory.write, Memory.wfFrom, hv, hlo, ha]
  | cons c rest ih =>
    obtain ⟨k, w⟩ := c
    simp only [Memory.wfFrom, Bool.and_eq_true, decide_eq_true_eq] at h
    obtain ⟨⟨⟨h1, h2⟩, h3⟩, h4⟩ := h
    simp only [Memory.write]
    split
    · rename_i hlt
      split
      · simp [Memory.wfFrom, h1, h2, h3, h4]
      · rename_i hv
        have hak : a + 1 ≤ k := by omega
        have hw : w ≠ unlistedByte := by simpa using h3
        simp [Memory.wfFrom, h2, hw, h4, hlo, ha, hv, hak]
    · split
      · rename_i heq
        subst heq
        split
        · exact Memory.wfFrom_mono h4 (by omega)
        · rename_i hv
          simp [Memory.wfFrom, h1, h2, h4, hv]
      · simp only [Memory.wfFrom, h1, h2, h3, decide_true, Bool.and_true, Bool.true_and]
        exact ih h4 (by omega)

theorem Memory.read_write_self {mem : Memory} (h : Memory.wf mem = true) (a : Nat) (v : Byte) :
    Memory.read (Memory.write mem a v) a = v := by
  unfold Memory.wf at h
  generalize hlo : (0 : Nat) = lo at h
  clear hlo
  induction mem generalizing lo with
  | nil => by_cases hv : v = unlistedByte <;> simp [Memory.write, Memory.read, hv]
  | cons c rest ih =>
    obtain ⟨k, w⟩ := c
    simp only [Memory.wfFrom, Bool.and_eq_true, decide_eq_true_eq] at h
    simp only [Memory.write]
    split
    · rename_i hlt
      split
      · rename_i hv
        have hne : k ≠ a := by omega
        simp only [Memory.read, hne, if_false, hv]
        exact Memory.read_of_wfFrom h.2 (by omega)
      · simp [Memory.read]
    · split
      · rename_i heq
        subst heq
        split
        · rename_i hv
          rw [hv]
          exact Memory.read_of_wfFrom h.2 (by omega)
        · simp [Memory.read]
      · rename_i hne
        have hne' : k ≠ a := fun e => hne e.symm
        simp only [Memory.read, hne', if_false]
        exact ih _ h.2

theorem Memory.read_write_other (mem : Memory) {a b : Nat} (v : Byte) (hab : b ≠ a) :
    Memory.read (Memory.write mem a v) b = Memory.read mem b := by
  have hba : a ≠ b := fun e => hab e.symm
  induction mem with
  | nil => by_cases hv : v = unlistedByte <;> simp [Memory.write, Memory.read, hv, hba]
  | cons c rest ih =>
    obtain ⟨k, w⟩ := c
    simp only [Memory.write]
    split
    · split <;> simp [Memory.read, hba]
    · split
      · rename_i heq
        subst heq
        split <;> simp [Memory.read, hba]
      · simp only [Memory.read, ih]

theorem Memory.wf_write {mem : Memory} (h : Memory.wf mem = true) {a : Nat} (v : Byte) (ha : a < Config.bufBytes) :
    Memory.wf (Memory.write mem a v) = true := Memory.wfFrom_write h v (Nat.zero_le _) ha

@[simp] theorem Memory.wf_nil : Memory.wf [] = true := rfl
@[simp] theorem Memory.read_nil (a : Nat) : Memory.read [] a = unlistedByte := rfl

theorem Memory.wf_ofCells (cells : List Host.Cell) : Memory.wf (Memory.ofCells cells) = true := by
  suffices ∀ mem : Memory, Memory.wf mem = true → Memory.wf (cells.foldl
      (fun mem c => if c.1 < Config.bufBytes then Memory.write mem c.1 c.2 else mem) mem) = true from this [] rfl
  induction cells with
  | nil => exact fun _ h => h
  | cons c rest ih =>
    intro mem h
    simp only [List.foldl_cons]
    split
    · rename_i hc
      exact ih _ (Memory.wf_write h _ hc)
    · exact ih _ h

/-! ### Runs of bytes -/

theorem Memory.wf_writeBytes {mem : Memory} (h : Memory.wf mem = true) {a : Nat} (bs : List Byte)
    (ha : a + bs.length ≤ Config.bufBytes) : Memory.wf (Memory.writeBytes mem a bs) = true := by
  induction bs generalizing mem a with
  | nil => exact h
  | cons b bs ih =>
    simp only [List.length_cons] at ha
    exact ih (Memory.wf_write h b (by omega)) (by omega)

theorem Memory.read_writeBytes_other (mem : Memory) {a b : Nat} (bs : List Byte)
    (hb : b < a ∨ a + bs.length ≤ b) : Memory.read (Memory.writeBytes mem a bs) b = Memory.read mem b := by
  induction bs generalizing mem a with
  | nil => rfl
  | cons x bs ih =>
    simp only [List.length_cons] at hb
    simp only [Memory.writeBytes]
    rw [ih _ (by omega), Memory.read_write_other _ _ (by omega)]

theorem Memory.read_writeBytes {mem : Memory} (h : Memory.wf mem = true) {a : Nat} (bs : List Byte)
    (ha : a + bs.length ≤ Config.bufBytes) {i : Nat} (hi : i < bs.length) :
    Memory.read (Memory.writeBytes mem a bs) (a + i) = bs[i] := by
  induction bs generalizing mem a i with
  | nil => simp at hi
  | cons x bs ih =>
    simp only [List.length_cons] at ha hi
    simp only [Memory.writeBytes]
    cases i with
    | zero =>
      rw [Memory.read_writeBytes_other _ _ (by omega)]
      simpa using Memory.read_write_self h a x
    | succ i =>
      have hw := Memory.wf_write h x (a := a) (by omega)
      have := ih hw (a := a + 1) (i := i) (by omega) (by omega)
      simpa [Nat.add_assoc, Nat.add_comm 1 i] using this

@[simp] theorem Memory.length_readBytes (mem : Memory) (a n : Nat) : (Memory.readBytes mem a n).length = n := by
  induction n generalizing a with
  | zero => rfl
  | succ n ih => simp [Memory.readBytes, ih]

theorem Memory.getElem?_readBytes (mem : Memory) (a n i : Nat) :
    (Memory.readBytes mem a n)[i]? = if i < n then some (Memory.read mem (a + i)) else none := by
  induction n generalizing a i with
  | zero => simp [Memory.readBytes]
  | succ n ih =>
    cases i with
    | zero => simp [Memory.readBytes]
    | succ i =>
      simp only [Memory.readBytes, List.getElem?_cons_succ, ih, Nat.add_lt_add_iff_right]
      have : a + 1 + i = a + (i + 1) := by omega
      rw [this]

theorem Memory.readBytes_congr {mem mem' : Memory} {a n : Nat}
    (h : ∀ i, a ≤ i → i < a + n → Memory.read mem i = Memory.read mem' i) :
    Memory.readBytes mem a n = Memory.readBytes mem' a n := by
  apply List.ext_getElem?
  intro i
  rw [Memory.getElem?_readBytes, Memory.getElem?_readBytes]
  split
  · rw [h (a + i) (by omega) (by omega)]
  · rfl

/-! ### Blocks -/

theorem Memory.byteOf_block (mem : Memory) (j i : Nat) (hi : i < 16) :
    byteOf (Memory.block mem j) i = Memory.read mem (blockOffset j + i) := by
  rw [Memory.block, byteOf_blockOfBytes _ _ hi, Memory.getElem?_readBytes]
  simp [hi]

theorem Memory.block_congr {mem mem' : Memory} {j : Nat}
    (h : ∀ i < 16, Memory.read mem (blockOffset j + i) = Memory.read mem' (blockOffset j + i)) :
    Memory.block mem j = Memory.block mem' j := by
  apply block_ext_bytes
  intro i hi
  rw [Memory.byteOf_block _ _ _ hi, Memory.byteOf_block _ _ _ hi, h i hi]

theorem Memory.wf_setBlock {mem : Memory} (h : Memory.wf mem = true) {j : Nat} (X : Block) (hj : j < Config.maxBlk) :
    Memory.wf (Memory.setBlock mem j X) = true := by
  apply Memory.wf_writeBytes h
  simp only [length_bytesOfBlock, blockOffset, Config.blk, Config.bufBytes, Config.maxBlk] at *
  omega

/-- The only bytes `setBlock` changes are those of its Block. -/
theorem Memory.read_setBlock_other (mem : Memory) {j a : Nat} (X : Block)
    (ha : a < blockOffset j ∨ blockOffset j + 16 ≤ a) :
    Memory.read (Memory.setBlock mem j X) a = Memory.read mem a := by
  apply Memory.read_writeBytes_other
  simpa using ha

theorem Memory.read_setBlock {mem : Memory} (h : Memory.wf mem = true) {j i : Nat} (X : Block)
    (hj : j < Config.maxBlk) (hi : i < 16) :
    Memory.read (Memory.setBlock mem j X) (blockOffset j + i) = byteOf X i := by
  have hb : blockOffset j + (bytesOfBlock X).length ≤ Config.bufBytes := by
    simp only [length_bytesOfBlock, blockOffset, Config.blk, Config.bufBytes, Config.maxBlk] at *
    omega
  have hl : i < (bytesOfBlock X).length := by simpa using hi
  rw [Memory.setBlock, Memory.read_writeBytes h _ hb hl]
  have := getElem?_bytesOfBlock X i
  simp only [hi, if_true] at this
  exact (List.getElem?_eq_some_iff.mp this).2

theorem Memory.block_setBlock_self {mem : Memory} (h : Memory.wf mem = true) {j : Nat} (X : Block)
    (hj : j < Config.maxBlk) : Memory.block (Memory.setBlock mem j X) j = X := by
  apply block_ext_bytes
  intro i hi
  rw [Memory.byteOf_block _ _ _ hi, Memory.read_setBlock h X hj hi]

theorem Memory.block_setBlock_other (mem : Memory) {j k : Nat} (X : Block) (hk : k ≠ j) :
    Memory.block (Memory.setBlock mem j X) k = Memory.block mem k := by
  apply Memory.block_congr
  intro i hi
  apply Memory.read_setBlock_other
  simp only [blockOffset, Config.blk]
  omega

/-- A draw reaches every content of a buffer: some list of cells gives every byte of it (log entry 14). -/
theorem Memory.exists_ofCells (f : Nat → Byte) :
    ∃ cells, ∀ a < Config.bufBytes, Memory.read (Memory.ofCells cells) a = f a := by
  refine ⟨(List.range Config.bufBytes).map fun a => (a, f a), ?_⟩
  suffices ∀ n ≤ Config.bufBytes, ∀ a < n, Memory.read (Memory.ofCells ((List.range n).map fun a => (a, f a))) a = f a from
    this _ (Nat.le_refl _)
  intro n hn
  induction n with
  | zero => intro a ha; omega
  | succ n ih =>
    intro a ha
    have hs : Memory.ofCells ((List.range (n + 1)).map fun a => (a, f a)) =
        Memory.write (Memory.ofCells ((List.range n).map fun a => (a, f a))) n (f n) := by
      simp [Memory.ofCells, List.range_succ, show n < 2048 from hn]
    rw [hs]
    by_cases he : a = n
    · rw [he, Memory.read_write_self (Memory.wf_ofCells _)]
    · rw [Memory.read_write_other _ _ he, ih (by omega) a (by omega)]

end Sys2Proof.Machine
end

