-- ==== Sys2Proof/Laws/PerInstr.lean ====
section
/-! SUPPORT. What holds of every command as syntax, one lemma per constructor. -/

namespace Sys2Proof.Laws.Encoding

/-- The command's fields are legal, and they are the fields of its byte (30_encoding R92, R93). -/
def Statement (i : Instr) : Prop := i.wellFormed = true ∧ fieldsOf (encode i) = i.fields

theorem dbl : Statement .dbl := ⟨rfl, rfl⟩
theorem bxor : Statement .bxor := ⟨rfl, rfl⟩
theorem ciphE : Statement .ciphE := ⟨rfl, rfl⟩
theorem ciphD : Statement .ciphD := ⟨rfl, rfl⟩
theorem lgen : Statement .lgen := ⟨rfl, rfl⟩
theorem emeE : Statement .emeE := ⟨rfl, rfl⟩
theorem emeD : Statement .emeD := ⟨rfl, rfl⟩

end Sys2Proof.Laws.Encoding
end

