-- ==== Sys2Proof/Laws/State.lean ====
section
/-! SUPPORT. One lemma per field per update: what each named operation leaves in each field of State. -/

namespace Sys2Proof.Machine

/-! ### fail -/

@[simp] theorem fail_ibuf (e : Err) (s : State) : (fail e s).ibuf = s.ibuf := rfl
@[simp] theorem fail_obuf (e : Err) (s : State) : (fail e s).obuf = s.obuf := rfl
@[simp] theorem fail_tweak (e : Err) (s : State) : (fail e s).tweak = s.tweak := rfl
@[simp] theorem fail_tlen (e : Err) (s : State) : (fail e s).tlen = s.tlen := rfl
@[simp] theorem fail_mlen (e : Err) (s : State) : (fail e s).mlen = s.mlen := rfl
@[simp] theorem fail_busy (e : Err) (s : State) : (fail e s).busy = false := rfl
@[simp] theorem fail_done (e : Err) (s : State) : (fail e s).done = true := rfl
@[simp] theorem fail_cfail (e : Err) (s : State) : (fail e s).cfail = s.cfail := rfl
@[simp] theorem fail_err (e : Err) (s : State) : (fail e s).err = e := rfl
@[simp] theorem fail_rlen (e : Err) (s : State) : (fail e s).rlen = 0 := rfl
@[simp] theorem fail_lt (e : Err) (s : State) : (fail e s).lt = s.lt := rfl
@[simp] theorem fail_ls (e : Err) (s : State) : (fail e s).ls = s.ls := rfl
@[simp] theorem fail_mp (e : Err) (s : State) : (fail e s).mp = s.mp := rfl
@[simp] theorem fail_mc (e : Err) (s : State) : (fail e s).mc = s.mc := rfl
@[simp] theorem fail_m (e : Err) (s : State) : (fail e s).m = s.m := rfl
@[simp] theorem fail_ccc (e : Err) (s : State) : (fail e s).ccc = s.ccc := rfl
@[simp] theorem fail_func (e : Err) (s : State) : (fail e s).func = s.func := rfl
@[simp] theorem fail_dir (e : Err) (s : State) : (fail e s).dir = s.dir := rfl
@[simp] theorem fail_mcnt (e : Err) (s : State) : (fail e s).mcnt = s.mcnt := rfl
@[simp] theorem fail_j (e : Err) (s : State) : (fail e s).j = s.j := rfl
@[simp] theorem fail_phase (e : Err) (s : State) : (fail e s).phase = .idle := rfl
@[simp] theorem fail_cbs (e : Err) (s : State) : (fail e s).cbs = s.cbs := rfl
@[simp] theorem fail_schedule (e : Err) (s : State) : (fail e s).schedule = s.schedule := rfl
@[simp] theorem fail_reads (e : Err) (s : State) : (fail e s).reads = s.reads := rfl

/-! ### finish -/

@[simp] theorem finish_ibuf (s : State) : (finish s).ibuf = s.ibuf := rfl
@[simp] theorem finish_obuf (s : State) : (finish s).obuf = s.obuf := rfl
@[simp] theorem finish_tweak (s : State) : (finish s).tweak = s.tweak := rfl
@[simp] theorem finish_tlen (s : State) : (finish s).tlen = s.tlen := rfl
@[simp] theorem finish_mlen (s : State) : (finish s).mlen = s.mlen := rfl
@[simp] theorem finish_busy (s : State) : (finish s).busy = false := rfl
@[simp] theorem finish_done (s : State) : (finish s).done = true := rfl
@[simp] theorem finish_cfail (s : State) : (finish s).cfail = s.cfail := rfl
@[simp] theorem finish_err (s : State) : (finish s).err = s.err := rfl
@[simp] theorem finish_rlen (s : State) : (finish s).rlen = 16 * s.mcnt.zeroExtend 16 := rfl
@[simp] theorem finish_lt (s : State) : (finish s).lt = s.lt := rfl
@[simp] theorem finish_ls (s : State) : (finish s).ls = s.ls := rfl
@[simp] theorem finish_mp (s : State) : (finish s).mp = s.mp := rfl
@[simp] theorem finish_mc (s : State) : (finish s).mc = s.mc := rfl
@[simp] theorem finish_m (s : State) : (finish s).m = s.m := rfl
@[simp] theorem finish_ccc (s : State) : (finish s).ccc = s.ccc := rfl
@[simp] theorem finish_func (s : State) : (finish s).func = s.func := rfl
@[simp] theorem finish_dir (s : State) : (finish s).dir = s.dir := rfl
@[simp] theorem finish_mcnt (s : State) : (finish s).mcnt = s.mcnt := rfl
@[simp] theorem finish_j (s : State) : (finish s).j = s.j := rfl
@[simp] theorem finish_phase (s : State) : (finish s).phase = .idle := rfl
@[simp] theorem finish_cbs (s : State) : (finish s).cbs = s.cbs := rfl
@[simp] theorem finish_schedule (s : State) : (finish s).schedule = s.schedule := rfl
@[simp] theorem finish_reads (s : State) : (finish s).reads = s.reads := rfl

/-! ### issue -/

@[simp] theorem issue_ibuf (i : Instr) (s : State) : (issue i s).ibuf = s.ibuf := by cases i <;> rfl
@[simp] theorem issue_obuf (i : Instr) (s : State) : (issue i s).obuf = s.obuf := by cases i <;> rfl
@[simp] theorem issue_tweak (i : Instr) (s : State) : (issue i s).tweak = s.tweak := by cases i <;> rfl
@[simp] theorem issue_tlen (i : Instr) (s : State) : (issue i s).tlen = s.tlen := by cases i <;> rfl
@[simp] theorem issue_mlen (i : Instr) (s : State) : (issue i s).mlen = s.mlen := by cases i <;> rfl
@[simp] theorem issue_busy (i : Instr) (s : State) : (issue i s).busy = true := by cases i <;> rfl
@[simp] theorem issue_done (i : Instr) (s : State) : (issue i s).done = false := by cases i <;> rfl
@[simp] theorem issue_cfail (i : Instr) (s : State) : (issue i s).cfail = s.cfail := by cases i <;> rfl
@[simp] theorem issue_err (i : Instr) (s : State) : (issue i s).err = .none := by cases i <;> rfl
@[simp] theorem issue_rlen (i : Instr) (s : State) : (issue i s).rlen = 0 := by cases i <;> rfl
@[simp] theorem issue_lt (i : Instr) (s : State) : (issue i s).lt = s.lt := by cases i <;> rfl
@[simp] theorem issue_ls (i : Instr) (s : State) : (issue i s).ls = s.ls := by cases i <;> rfl
@[simp] theorem issue_mp (i : Instr) (s : State) : (issue i s).mp = s.mp := by cases i <;> rfl
@[simp] theorem issue_mc (i : Instr) (s : State) : (issue i s).mc = s.mc := by cases i <;> rfl
@[simp] theorem issue_m (i : Instr) (s : State) : (issue i s).m = s.m := by cases i <;> rfl
@[simp] theorem issue_ccc (i : Instr) (s : State) : (issue i s).ccc = s.ccc := by cases i <;> rfl
@[simp] theorem issue_func (i : Instr) (s : State) : (issue i s).func = i.fields.func := by cases i <;> rfl
@[simp] theorem issue_dir (i : Instr) (s : State) : (issue i s).dir = i.fields.dir := by cases i <;> rfl
@[simp] theorem issue_mcnt (i : Instr) (s : State) : (issue i s).mcnt = s.mcnt := by cases i <;> rfl
@[simp] theorem issue_j (i : Instr) (s : State) : (issue i s).j = s.j := by cases i <;> rfl
@[simp] theorem issue_phase (i : Instr) (s : State) : (issue i s).phase = .validate := by cases i <;> rfl
@[simp] theorem issue_cbs (i : Instr) (s : State) : (issue i s).cbs = s.cbs := by cases i <;> rfl
@[simp] theorem issue_schedule (i : Instr) (s : State) : (issue i s).schedule = s.schedule := by cases i <;> rfl
@[simp] theorem issue_reads (i : Instr) (s : State) : (issue i s).reads = s.reads := by cases i <;> rfl

/-! ### issueIllegal -/

@[simp] theorem issueIllegal_ibuf (s : State) : (issueIllegal s).ibuf = s.ibuf := rfl
@[simp] theorem issueIllegal_obuf (s : State) : (issueIllegal s).obuf = s.obuf := rfl
@[simp] theorem issueIllegal_tweak (s : State) : (issueIllegal s).tweak = s.tweak := rfl
@[simp] theorem issueIllegal_tlen (s : State) : (issueIllegal s).tlen = s.tlen := rfl
@[simp] theorem issueIllegal_mlen (s : State) : (issueIllegal s).mlen = s.mlen := rfl
@[simp] theorem issueIllegal_busy (s : State) : (issueIllegal s).busy = s.busy := rfl
@[simp] theorem issueIllegal_done (s : State) : (issueIllegal s).done = true := rfl
@[simp] theorem issueIllegal_cfail (s : State) : (issueIllegal s).cfail = s.cfail := rfl
@[simp] theorem issueIllegal_err (s : State) : (issueIllegal s).err = .illegalCommand := rfl
@[simp] theorem issueIllegal_rlen (s : State) : (issueIllegal s).rlen = 0 := rfl
@[simp] theorem issueIllegal_lt (s : State) : (issueIllegal s).lt = s.lt := rfl
@[simp] theorem issueIllegal_ls (s : State) : (issueIllegal s).ls = s.ls := rfl
@[simp] theorem issueIllegal_mp (s : State) : (issueIllegal s).mp = s.mp := rfl
@[simp] theorem issueIllegal_mc (s : State) : (issueIllegal s).mc = s.mc := rfl
@[simp] theorem issueIllegal_m (s : State) : (issueIllegal s).m = s.m := rfl
@[simp] theorem issueIllegal_ccc (s : State) : (issueIllegal s).ccc = s.ccc := rfl
@[simp] theorem issueIllegal_func (s : State) : (issueIllegal s).func = s.func := rfl
@[simp] theorem issueIllegal_dir (s : State) : (issueIllegal s).dir = s.dir := rfl
@[simp] theorem issueIllegal_mcnt (s : State) : (issueIllegal s).mcnt = s.mcnt := rfl
@[simp] theorem issueIllegal_j (s : State) : (issueIllegal s).j = s.j := rfl
@[simp] theorem issueIllegal_phase (s : State) : (issueIllegal s).phase = s.phase := rfl
@[simp] theorem issueIllegal_cbs (s : State) : (issueIllegal s).cbs = s.cbs := rfl
@[simp] theorem issueIllegal_schedule (s : State) : (issueIllegal s).schedule = s.schedule := rfl
@[simp] theorem issueIllegal_reads (s : State) : (issueIllegal s).reads = s.reads := rfl

/-! ### recordRead -/

@[simp] theorem recordRead_ibuf (a : Addr) (s : State) : (recordRead a s).ibuf = s.ibuf := rfl
@[simp] theorem recordRead_obuf (a : Addr) (s : State) : (recordRead a s).obuf = s.obuf := rfl
@[simp] theorem recordRead_tweak (a : Addr) (s : State) : (recordRead a s).tweak = s.tweak := rfl
@[simp] theorem recordRead_tlen (a : Addr) (s : State) : (recordRead a s).tlen = s.tlen := rfl
@[simp] theorem recordRead_mlen (a : Addr) (s : State) : (recordRead a s).mlen = s.mlen := rfl
@[simp] theorem recordRead_busy (a : Addr) (s : State) : (recordRead a s).busy = s.busy := rfl
@[simp] theorem recordRead_done (a : Addr) (s : State) : (recordRead a s).done = s.done := rfl
@[simp] theorem recordRead_cfail (a : Addr) (s : State) : (recordRead a s).cfail = s.cfail := rfl
@[simp] theorem recordRead_err (a : Addr) (s : State) : (recordRead a s).err = s.err := rfl
@[simp] theorem recordRead_rlen (a : Addr) (s : State) : (recordRead a s).rlen = s.rlen := rfl
@[simp] theorem recordRead_lt (a : Addr) (s : State) : (recordRead a s).lt = s.lt := rfl
@[simp] theorem recordRead_ls (a : Addr) (s : State) : (recordRead a s).ls = s.ls := rfl
@[simp] theorem recordRead_mp (a : Addr) (s : State) : (recordRead a s).mp = s.mp := rfl
@[simp] theorem recordRead_mc (a : Addr) (s : State) : (recordRead a s).mc = s.mc := rfl
@[simp] theorem recordRead_m (a : Addr) (s : State) : (recordRead a s).m = s.m := rfl
@[simp] theorem recordRead_ccc (a : Addr) (s : State) : (recordRead a s).ccc = s.ccc := rfl
@[simp] theorem recordRead_func (a : Addr) (s : State) : (recordRead a s).func = s.func := rfl
@[simp] theorem recordRead_dir (a : Addr) (s : State) : (recordRead a s).dir = s.dir := rfl
@[simp] theorem recordRead_mcnt (a : Addr) (s : State) : (recordRead a s).mcnt = s.mcnt := rfl
@[simp] theorem recordRead_j (a : Addr) (s : State) : (recordRead a s).j = s.j := rfl
@[simp] theorem recordRead_phase (a : Addr) (s : State) : (recordRead a s).phase = s.phase := rfl
@[simp] theorem recordRead_cbs (a : Addr) (s : State) : (recordRead a s).cbs = s.cbs := rfl
@[simp] theorem recordRead_schedule (a : Addr) (s : State) : (recordRead a s).schedule = s.schedule := rfl
@[simp] theorem recordRead_reads (a : Addr) (s : State) : (recordRead a s).reads = hostRead s a :: s.reads := rfl

/-! ### placeCommand -/

@[simp] theorem placeCommand_ibuf (v : Byte) (s : State) : (placeCommand v s).ibuf = s.ibuf := rfl
@[simp] theorem placeCommand_obuf (v : Byte) (s : State) : (placeCommand v s).obuf = s.obuf := rfl
@[simp] theorem placeCommand_tweak (v : Byte) (s : State) : (placeCommand v s).tweak = s.tweak := rfl
@[simp] theorem placeCommand_tlen (v : Byte) (s : State) : (placeCommand v s).tlen = s.tlen := rfl
@[simp] theorem placeCommand_mlen (v : Byte) (s : State) : (placeCommand v s).mlen = s.mlen := rfl
@[simp] theorem placeCommand_busy (v : Byte) (s : State) : (placeCommand v s).busy = s.busy := rfl
@[simp] theorem placeCommand_done (v : Byte) (s : State) : (placeCommand v s).done = s.done := rfl
@[simp] theorem placeCommand_cfail (v : Byte) (s : State) : (placeCommand v s).cfail = s.cfail := rfl
@[simp] theorem placeCommand_err (v : Byte) (s : State) : (placeCommand v s).err = s.err := rfl
@[simp] theorem placeCommand_rlen (v : Byte) (s : State) : (placeCommand v s).rlen = s.rlen := rfl
@[simp] theorem placeCommand_lt (v : Byte) (s : State) : (placeCommand v s).lt = s.lt := rfl
@[simp] theorem placeCommand_ls (v : Byte) (s : State) : (placeCommand v s).ls = s.ls := rfl
@[simp] theorem placeCommand_mp (v : Byte) (s : State) : (placeCommand v s).mp = s.mp := rfl
@[simp] theorem placeCommand_mc (v : Byte) (s : State) : (placeCommand v s).mc = s.mc := rfl
@[simp] theorem placeCommand_m (v : Byte) (s : State) : (placeCommand v s).m = s.m := rfl
@[simp] theorem placeCommand_ccc (v : Byte) (s : State) : (placeCommand v s).ccc = s.ccc := rfl
@[simp] theorem placeCommand_func (v : Byte) (s : State) : (placeCommand v s).func = s.func := rfl
@[simp] theorem placeCommand_dir (v : Byte) (s : State) : (placeCommand v s).dir = s.dir := rfl
@[simp] theorem placeCommand_mcnt (v : Byte) (s : State) : (placeCommand v s).mcnt = s.mcnt := rfl
@[simp] theorem placeCommand_j (v : Byte) (s : State) : (placeCommand v s).j = s.j := rfl
@[simp] theorem placeCommand_phase (v : Byte) (s : State) : (placeCommand v s).phase = s.phase := rfl
@[simp] theorem placeCommand_cbs (v : Byte) (s : State) : (placeCommand v s).cbs = s.cbs := rfl
@[simp] theorem placeCommand_schedule (v : Byte) (s : State) : (placeCommand v s).schedule = .command v :: s.schedule := rfl
@[simp] theorem placeCommand_reads (v : Byte) (s : State) : (placeCommand v s).reads = s.reads := rfl

/-! ### resetWith -/

@[simp] theorem resetWith_ibuf (d : Draw) (s : State) : (resetWith d s).ibuf = Memory.ofCells d.ibuf := rfl
@[simp] theorem resetWith_obuf (d : Draw) (s : State) : (resetWith d s).obuf = Memory.ofCells d.obuf := rfl
@[simp] theorem resetWith_tweak (d : Draw) (s : State) : (resetWith d s).tweak = 0 := rfl
@[simp] theorem resetWith_tlen (d : Draw) (s : State) : (resetWith d s).tlen = 0 := rfl
@[simp] theorem resetWith_mlen (d : Draw) (s : State) : (resetWith d s).mlen = 0 := rfl
@[simp] theorem resetWith_busy (d : Draw) (s : State) : (resetWith d s).busy = false := rfl
@[simp] theorem resetWith_done (d : Draw) (s : State) : (resetWith d s).done = false := rfl
@[simp] theorem resetWith_cfail (d : Draw) (s : State) : (resetWith d s).cfail = (s.cbs != 16) := rfl
@[simp] theorem resetWith_err (d : Draw) (s : State) : (resetWith d s).err = if s.cbs != 16 then .unsupportedBlockSize else .none := rfl
@[simp] theorem resetWith_rlen (d : Draw) (s : State) : (resetWith d s).rlen = 0 := rfl
@[simp] theorem resetWith_lt (d : Draw) (s : State) : (resetWith d s).lt = Memory.ofCells d.lt := rfl
@[simp] theorem resetWith_ls (d : Draw) (s : State) : (resetWith d s).ls = d.ls := rfl
@[simp] theorem resetWith_mp (d : Draw) (s : State) : (resetWith d s).mp = d.mp := rfl
@[simp] theorem resetWith_mc (d : Draw) (s : State) : (resetWith d s).mc = d.mc := rfl
@[simp] theorem resetWith_m (d : Draw) (s : State) : (resetWith d s).m = d.m := rfl
@[simp] theorem resetWith_ccc (d : Draw) (s : State) : (resetWith d s).ccc = d.ccc := rfl
@[simp] theorem resetWith_func (d : Draw) (s : State) : (resetWith d s).func = 0 := rfl
@[simp] theorem resetWith_dir (d : Draw) (s : State) : (resetWith d s).dir = 0 := rfl
@[simp] theorem resetWith_mcnt (d : Draw) (s : State) : (resetWith d s).mcnt = 0 := rfl
@[simp] theorem resetWith_j (d : Draw) (s : State) : (resetWith d s).j = 0 := rfl
@[simp] theorem resetWith_phase (d : Draw) (s : State) : (resetWith d s).phase = .idle := rfl
@[simp] theorem resetWith_cbs (d : Draw) (s : State) : (resetWith d s).cbs = s.cbs := rfl
@[simp] theorem resetWith_schedule (d : Draw) (s : State) : (resetWith d s).schedule = s.schedule := rfl
@[simp] theorem resetWith_reads (d : Draw) (s : State) : (resetWith d s).reads = s.reads := rfl

/-! ### dispatch -/

@[simp] theorem dispatch_ibuf (s : State) : (dispatch s).ibuf = s.ibuf := rfl
@[simp] theorem dispatch_obuf (s : State) : (dispatch s).obuf = s.obuf := rfl
@[simp] theorem dispatch_tweak (s : State) : (dispatch s).tweak = s.tweak := rfl
@[simp] theorem dispatch_tlen (s : State) : (dispatch s).tlen = s.tlen := rfl
@[simp] theorem dispatch_mlen (s : State) : (dispatch s).mlen = s.mlen := rfl
@[simp] theorem dispatch_busy (s : State) : (dispatch s).busy = s.busy := rfl
@[simp] theorem dispatch_done (s : State) : (dispatch s).done = s.done := rfl
@[simp] theorem dispatch_cfail (s : State) : (dispatch s).cfail = s.cfail := rfl
@[simp] theorem dispatch_err (s : State) : (dispatch s).err = s.err := rfl
@[simp] theorem dispatch_rlen (s : State) : (dispatch s).rlen = s.rlen := rfl
@[simp] theorem dispatch_lt (s : State) : (dispatch s).lt = s.lt := rfl
@[simp] theorem dispatch_ls (s : State) : (dispatch s).ls = s.ls := rfl
@[simp] theorem dispatch_mp (s : State) : (dispatch s).mp = s.mp := rfl
@[simp] theorem dispatch_mc (s : State) : (dispatch s).mc = s.mc := rfl
@[simp] theorem dispatch_m (s : State) : (dispatch s).m = s.m := rfl
@[simp] theorem dispatch_ccc (s : State) : (dispatch s).ccc = s.ccc := rfl
@[simp] theorem dispatch_func (s : State) : (dispatch s).func = s.func := rfl
@[simp] theorem dispatch_dir (s : State) : (dispatch s).dir = s.dir := rfl
@[simp] theorem dispatch_mcnt (s : State) : (dispatch s).mcnt = if usesLength s.func then BitVec.ofNat 8 (blockCount s) else s.mcnt := rfl
@[simp] theorem dispatch_j (s : State) : (dispatch s).j = s.j := rfl
@[simp] theorem dispatch_phase (s : State) : (dispatch s).phase = dispatchPhase s.func := rfl
@[simp] theorem dispatch_cbs (s : State) : (dispatch s).cbs = s.cbs := rfl
@[simp] theorem dispatch_schedule (s : State) : (dispatch s).schedule = s.schedule := rfl
@[simp] theorem dispatch_reads (s : State) : (dispatch s).reads = s.reads := rfl

/-! ### uDbl -/

@[simp] theorem uDbl_ibuf (s : State) : (uDbl s).ibuf = s.ibuf := rfl
@[simp] theorem uDbl_obuf (s : State) : (uDbl s).obuf = Memory.setBlock s.obuf 0 (double (ib s 0)) := rfl
@[simp] theorem uDbl_tweak (s : State) : (uDbl s).tweak = s.tweak := rfl
@[simp] theorem uDbl_tlen (s : State) : (uDbl s).tlen = s.tlen := rfl
@[simp] theorem uDbl_mlen (s : State) : (uDbl s).mlen = s.mlen := rfl
@[simp] theorem uDbl_busy (s : State) : (uDbl s).busy = s.busy := rfl
@[simp] theorem uDbl_done (s : State) : (uDbl s).done = s.done := rfl
@[simp] theorem uDbl_cfail (s : State) : (uDbl s).cfail = s.cfail := rfl
@[simp] theorem uDbl_err (s : State) : (uDbl s).err = s.err := rfl
@[simp] theorem uDbl_rlen (s : State) : (uDbl s).rlen = s.rlen := rfl
@[simp] theorem uDbl_lt (s : State) : (uDbl s).lt = s.lt := rfl
@[simp] theorem uDbl_ls (s : State) : (uDbl s).ls = s.ls := rfl
@[simp] theorem uDbl_mp (s : State) : (uDbl s).mp = s.mp := rfl
@[simp] theorem uDbl_mc (s : State) : (uDbl s).mc = s.mc := rfl
@[simp] theorem uDbl_m (s : State) : (uDbl s).m = s.m := rfl
@[simp] theorem uDbl_ccc (s : State) : (uDbl s).ccc = s.ccc := rfl
@[simp] theorem uDbl_func (s : State) : (uDbl s).func = s.func := rfl
@[simp] theorem uDbl_dir (s : State) : (uDbl s).dir = s.dir := rfl
@[simp] theorem uDbl_mcnt (s : State) : (uDbl s).mcnt = 1 := rfl
@[simp] theorem uDbl_j (s : State) : (uDbl s).j = s.j := rfl
@[simp] theorem uDbl_phase (s : State) : (uDbl s).phase = .finish := rfl
@[simp] theorem uDbl_cbs (s : State) : (uDbl s).cbs = s.cbs := rfl
@[simp] theorem uDbl_schedule (s : State) : (uDbl s).schedule = s.schedule := rfl
@[simp] theorem uDbl_reads (s : State) : (uDbl s).reads = s.reads := rfl

/-! ### uXor -/

@[simp] theorem uXor_ibuf (s : State) : (uXor s).ibuf = s.ibuf := rfl
@[simp] theorem uXor_obuf (s : State) : (uXor s).obuf = Memory.setBlock s.obuf 0 (blockXor (ib s 0) (ib s 1)) := rfl
@[simp] theorem uXor_tweak (s : State) : (uXor s).tweak = s.tweak := rfl
@[simp] theorem uXor_tlen (s : State) : (uXor s).tlen = s.tlen := rfl
@[simp] theorem uXor_mlen (s : State) : (uXor s).mlen = s.mlen := rfl
@[simp] theorem uXor_busy (s : State) : (uXor s).busy = s.busy := rfl
@[simp] theorem uXor_done (s : State) : (uXor s).done = s.done := rfl
@[simp] theorem uXor_cfail (s : State) : (uXor s).cfail = s.cfail := rfl
@[simp] theorem uXor_err (s : State) : (uXor s).err = s.err := rfl
@[simp] theorem uXor_rlen (s : State) : (uXor s).rlen = s.rlen := rfl
@[simp] theorem uXor_lt (s : State) : (uXor s).lt = s.lt := rfl
@[simp] theorem uXor_ls (s : State) : (uXor s).ls = s.ls := rfl
@[simp] theorem uXor_mp (s : State) : (uXor s).mp = s.mp := rfl
@[simp] theorem uXor_mc (s : State) : (uXor s).mc = s.mc := rfl
@[simp] theorem uXor_m (s : State) : (uXor s).m = s.m := rfl
@[simp] theorem uXor_ccc (s : State) : (uXor s).ccc = s.ccc := rfl
@[simp] theorem uXor_func (s : State) : (uXor s).func = s.func := rfl
@[simp] theorem uXor_dir (s : State) : (uXor s).dir = s.dir := rfl
@[simp] theorem uXor_mcnt (s : State) : (uXor s).mcnt = 1 := rfl
@[simp] theorem uXor_j (s : State) : (uXor s).j = s.j := rfl
@[simp] theorem uXor_phase (s : State) : (uXor s).phase = .finish := rfl
@[simp] theorem uXor_cbs (s : State) : (uXor s).cbs = s.cbs := rfl
@[simp] theorem uXor_schedule (s : State) : (uXor s).schedule = s.schedule := rfl
@[simp] theorem uXor_reads (s : State) : (uXor s).reads = s.reads := rfl

/-! ### uCiph -/

@[simp] theorem uCiph_ibuf (c : Cipher) (s : State) : (uCiph c s).ibuf = s.ibuf := rfl
@[simp] theorem uCiph_obuf (c : Cipher) (s : State) : (uCiph c s).obuf = Memory.setBlock s.obuf 0 (bc c s.dir (ib s 0)) := rfl
@[simp] theorem uCiph_tweak (c : Cipher) (s : State) : (uCiph c s).tweak = s.tweak := rfl
@[simp] theorem uCiph_tlen (c : Cipher) (s : State) : (uCiph c s).tlen = s.tlen := rfl
@[simp] theorem uCiph_mlen (c : Cipher) (s : State) : (uCiph c s).mlen = s.mlen := rfl
@[simp] theorem uCiph_busy (c : Cipher) (s : State) : (uCiph c s).busy = s.busy := rfl
@[simp] theorem uCiph_done (c : Cipher) (s : State) : (uCiph c s).done = s.done := rfl
@[simp] theorem uCiph_cfail (c : Cipher) (s : State) : (uCiph c s).cfail = s.cfail := rfl
@[simp] theorem uCiph_err (c : Cipher) (s : State) : (uCiph c s).err = s.err := rfl
@[simp] theorem uCiph_rlen (c : Cipher) (s : State) : (uCiph c s).rlen = s.rlen := rfl
@[simp] theorem uCiph_lt (c : Cipher) (s : State) : (uCiph c s).lt = s.lt := rfl
@[simp] theorem uCiph_ls (c : Cipher) (s : State) : (uCiph c s).ls = s.ls := rfl
@[simp] theorem uCiph_mp (c : Cipher) (s : State) : (uCiph c s).mp = s.mp := rfl
@[simp] theorem uCiph_mc (c : Cipher) (s : State) : (uCiph c s).mc = s.mc := rfl
@[simp] theorem uCiph_m (c : Cipher) (s : State) : (uCiph c s).m = s.m := rfl
@[simp] theorem uCiph_ccc (c : Cipher) (s : State) : (uCiph c s).ccc = s.ccc := rfl
@[simp] theorem uCiph_func (c : Cipher) (s : State) : (uCiph c s).func = s.func := rfl
@[simp] theorem uCiph_dir (c : Cipher) (s : State) : (uCiph c s).dir = s.dir := rfl
@[simp] theorem uCiph_mcnt (c : Cipher) (s : State) : (uCiph c s).mcnt = 1 := rfl
@[simp] theorem uCiph_j (c : Cipher) (s : State) : (uCiph c s).j = s.j := rfl
@[simp] theorem uCiph_phase (c : Cipher) (s : State) : (uCiph c s).phase = .finish := rfl
@[simp] theorem uCiph_cbs (c : Cipher) (s : State) : (uCiph c s).cbs = s.cbs := rfl
@[simp] theorem uCiph_schedule (c : Cipher) (s : State) : (uCiph c s).schedule = s.schedule := rfl
@[simp] theorem uCiph_reads (c : Cipher) (s : State) : (uCiph c s).reads = s.reads := rfl

/-! ### lSeed -/

@[simp] theorem lSeed_ibuf (c : Cipher) (s : State) : (lSeed c s).ibuf = s.ibuf := rfl
@[simp] theorem lSeed_obuf (c : Cipher) (s : State) : (lSeed c s).obuf = s.obuf := rfl
@[simp] theorem lSeed_tweak (c : Cipher) (s : State) : (lSeed c s).tweak = s.tweak := rfl
@[simp] theorem lSeed_tlen (c : Cipher) (s : State) : (lSeed c s).tlen = s.tlen := rfl
@[simp] theorem lSeed_mlen (c : Cipher) (s : State) : (lSeed c s).mlen = s.mlen := rfl
@[simp] theorem lSeed_busy (c : Cipher) (s : State) : (lSeed c s).busy = s.busy := rfl
@[simp] theorem lSeed_done (c : Cipher) (s : State) : (lSeed c s).done = s.done := rfl
@[simp] theorem lSeed_cfail (c : Cipher) (s : State) : (lSeed c s).cfail = s.cfail := rfl
@[simp] theorem lSeed_err (c : Cipher) (s : State) : (lSeed c s).err = s.err := rfl
@[simp] theorem lSeed_rlen (c : Cipher) (s : State) : (lSeed c s).rlen = s.rlen := rfl
@[simp] theorem lSeed_lt (c : Cipher) (s : State) : (lSeed c s).lt = s.lt := rfl
@[simp] theorem lSeed_ls (c : Cipher) (s : State) : (lSeed c s).ls = c.E 0 := rfl
@[simp] theorem lSeed_mp (c : Cipher) (s : State) : (lSeed c s).mp = s.mp := rfl
@[simp] theorem lSeed_mc (c : Cipher) (s : State) : (lSeed c s).mc = s.mc := rfl
@[simp] theorem lSeed_m (c : Cipher) (s : State) : (lSeed c s).m = s.m := rfl
@[simp] theorem lSeed_ccc (c : Cipher) (s : State) : (lSeed c s).ccc = s.ccc := rfl
@[simp] theorem lSeed_func (c : Cipher) (s : State) : (lSeed c s).func = s.func := rfl
@[simp] theorem lSeed_dir (c : Cipher) (s : State) : (lSeed c s).dir = s.dir := rfl
@[simp] theorem lSeed_mcnt (c : Cipher) (s : State) : (lSeed c s).mcnt = s.mcnt := rfl
@[simp] theorem lSeed_j (c : Cipher) (s : State) : (lSeed c s).j = 0 := rfl
@[simp] theorem lSeed_phase (c : Cipher) (s : State) : (lSeed c s).phase = .lGen := rfl
@[simp] theorem lSeed_cbs (c : Cipher) (s : State) : (lSeed c s).cbs = s.cbs := rfl
@[simp] theorem lSeed_schedule (c : Cipher) (s : State) : (lSeed c s).schedule = s.schedule := rfl
@[simp] theorem lSeed_reads (c : Cipher) (s : State) : (lSeed c s).reads = s.reads := rfl

/-! ### mpInit -/

@[simp] theorem mpInit_ibuf (s : State) : (mpInit s).ibuf = s.ibuf := rfl
@[simp] theorem mpInit_obuf (s : State) : (mpInit s).obuf = s.obuf := rfl
@[simp] theorem mpInit_tweak (s : State) : (mpInit s).tweak = s.tweak := rfl
@[simp] theorem mpInit_tlen (s : State) : (mpInit s).tlen = s.tlen := rfl
@[simp] theorem mpInit_mlen (s : State) : (mpInit s).mlen = s.mlen := rfl
@[simp] theorem mpInit_busy (s : State) : (mpInit s).busy = s.busy := rfl
@[simp] theorem mpInit_done (s : State) : (mpInit s).done = s.done := rfl
@[simp] theorem mpInit_cfail (s : State) : (mpInit s).cfail = s.cfail := rfl
@[simp] theorem mpInit_err (s : State) : (mpInit s).err = s.err := rfl
@[simp] theorem mpInit_rlen (s : State) : (mpInit s).rlen = s.rlen := rfl
@[simp] theorem mpInit_lt (s : State) : (mpInit s).lt = s.lt := rfl
@[simp] theorem mpInit_ls (s : State) : (mpInit s).ls = s.ls := rfl
@[simp] theorem mpInit_mp (s : State) : (mpInit s).mp = blockXor (ob s 0) s.tweak := rfl
@[simp] theorem mpInit_mc (s : State) : (mpInit s).mc = s.mc := rfl
@[simp] theorem mpInit_m (s : State) : (mpInit s).m = s.m := rfl
@[simp] theorem mpInit_ccc (s : State) : (mpInit s).ccc = s.ccc := rfl
@[simp] theorem mpInit_func (s : State) : (mpInit s).func = s.func := rfl
@[simp] theorem mpInit_dir (s : State) : (mpInit s).dir = s.dir := rfl
@[simp] theorem mpInit_mcnt (s : State) : (mpInit s).mcnt = s.mcnt := rfl
@[simp] theorem mpInit_j (s : State) : (mpInit s).j = 1 := rfl
@[simp] theorem mpInit_phase (s : State) : (mpInit s).phase = if s.mcnt.toNat > 1 then .mpAcc else .mcEnc := rfl
@[simp] theorem mpInit_cbs (s : State) : (mpInit s).cbs = s.cbs := rfl
@[simp] theorem mpInit_schedule (s : State) : (mpInit s).schedule = s.schedule := rfl
@[simp] theorem mpInit_reads (s : State) : (mpInit s).reads = s.reads := rfl

/-! ### mcEnc -/

@[simp] theorem mcEnc_ibuf (c : Cipher) (s : State) : (mcEnc c s).ibuf = s.ibuf := rfl
@[simp] theorem mcEnc_obuf (c : Cipher) (s : State) : (mcEnc c s).obuf = s.obuf := rfl
@[simp] theorem mcEnc_tweak (c : Cipher) (s : State) : (mcEnc c s).tweak = s.tweak := rfl
@[simp] theorem mcEnc_tlen (c : Cipher) (s : State) : (mcEnc c s).tlen = s.tlen := rfl
@[simp] theorem mcEnc_mlen (c : Cipher) (s : State) : (mcEnc c s).mlen = s.mlen := rfl
@[simp] theorem mcEnc_busy (c : Cipher) (s : State) : (mcEnc c s).busy = s.busy := rfl
@[simp] theorem mcEnc_done (c : Cipher) (s : State) : (mcEnc c s).done = s.done := rfl
@[simp] theorem mcEnc_cfail (c : Cipher) (s : State) : (mcEnc c s).cfail = s.cfail := rfl
@[simp] theorem mcEnc_err (c : Cipher) (s : State) : (mcEnc c s).err = s.err := rfl
@[simp] theorem mcEnc_rlen (c : Cipher) (s : State) : (mcEnc c s).rlen = s.rlen := rfl
@[simp] theorem mcEnc_lt (c : Cipher) (s : State) : (mcEnc c s).lt = s.lt := rfl
@[simp] theorem mcEnc_ls (c : Cipher) (s : State) : (mcEnc c s).ls = s.ls := rfl
@[simp] theorem mcEnc_mp (c : Cipher) (s : State) : (mcEnc c s).mp = s.mp := rfl
@[simp] theorem mcEnc_mc (c : Cipher) (s : State) : (mcEnc c s).mc = bc c s.dir s.mp := rfl
@[simp] theorem mcEnc_m (c : Cipher) (s : State) : (mcEnc c s).m = s.m := rfl
@[simp] theorem mcEnc_ccc (c : Cipher) (s : State) : (mcEnc c s).ccc = s.ccc := rfl
@[simp] theorem mcEnc_func (c : Cipher) (s : State) : (mcEnc c s).func = s.func := rfl
@[simp] theorem mcEnc_dir (c : Cipher) (s : State) : (mcEnc c s).dir = s.dir := rfl
@[simp] theorem mcEnc_mcnt (c : Cipher) (s : State) : (mcEnc c s).mcnt = s.mcnt := rfl
@[simp] theorem mcEnc_j (c : Cipher) (s : State) : (mcEnc c s).j = s.j := rfl
@[simp] theorem mcEnc_phase (c : Cipher) (s : State) : (mcEnc c s).phase = .mMask := rfl
@[simp] theorem mcEnc_cbs (c : Cipher) (s : State) : (mcEnc c s).cbs = s.cbs := rfl
@[simp] theorem mcEnc_schedule (c : Cipher) (s : State) : (mcEnc c s).schedule = s.schedule := rfl
@[simp] theorem mcEnc_reads (c : Cipher) (s : State) : (mcEnc c s).reads = s.reads := rfl

/-! ### mMask -/

@[simp] theorem mMask_ibuf (s : State) : (mMask s).ibuf = s.ibuf := rfl
@[simp] theorem mMask_obuf (s : State) : (mMask s).obuf = s.obuf := rfl
@[simp] theorem mMask_tweak (s : State) : (mMask s).tweak = s.tweak := rfl
@[simp] theorem mMask_tlen (s : State) : (mMask s).tlen = s.tlen := rfl
@[simp] theorem mMask_mlen (s : State) : (mMask s).mlen = s.mlen := rfl
@[simp] theorem mMask_busy (s : State) : (mMask s).busy = s.busy := rfl
@[simp] theorem mMask_done (s : State) : (mMask s).done = s.done := rfl
@[simp] theorem mMask_cfail (s : State) : (mMask s).cfail = s.cfail := rfl
@[simp] theorem mMask_err (s : State) : (mMask s).err = s.err := rfl
@[simp] theorem mMask_rlen (s : State) : (mMask s).rlen = s.rlen := rfl
@[simp] theorem mMask_lt (s : State) : (mMask s).lt = s.lt := rfl
@[simp] theorem mMask_ls (s : State) : (mMask s).ls = s.ls := rfl
@[simp] theorem mMask_mp (s : State) : (mMask s).mp = s.mp := rfl
@[simp] theorem mMask_mc (s : State) : (mMask s).mc = s.mc := rfl
@[simp] theorem mMask_m (s : State) : (mMask s).m = blockXor s.mp s.mc := rfl
@[simp] theorem mMask_ccc (s : State) : (mMask s).ccc = s.ccc := rfl
@[simp] theorem mMask_func (s : State) : (mMask s).func = s.func := rfl
@[simp] theorem mMask_dir (s : State) : (mMask s).dir = s.dir := rfl
@[simp] theorem mMask_mcnt (s : State) : (mMask s).mcnt = s.mcnt := rfl
@[simp] theorem mMask_j (s : State) : (mMask s).j = 1 := rfl
@[simp] theorem mMask_phase (s : State) : (mMask s).phase = if s.mcnt.toNat > 1 then .p2 else .cccInit := rfl
@[simp] theorem mMask_cbs (s : State) : (mMask s).cbs = s.cbs := rfl
@[simp] theorem mMask_schedule (s : State) : (mMask s).schedule = s.schedule := rfl
@[simp] theorem mMask_reads (s : State) : (mMask s).reads = s.reads := rfl

/-! ### cccInit -/

@[simp] theorem cccInit_ibuf (s : State) : (cccInit s).ibuf = s.ibuf := rfl
@[simp] theorem cccInit_obuf (s : State) : (cccInit s).obuf = s.obuf := rfl
@[simp] theorem cccInit_tweak (s : State) : (cccInit s).tweak = s.tweak := rfl
@[simp] theorem cccInit_tlen (s : State) : (cccInit s).tlen = s.tlen := rfl
@[simp] theorem cccInit_mlen (s : State) : (cccInit s).mlen = s.mlen := rfl
@[simp] theorem cccInit_busy (s : State) : (cccInit s).busy = s.busy := rfl
@[simp] theorem cccInit_done (s : State) : (cccInit s).done = s.done := rfl
@[simp] theorem cccInit_cfail (s : State) : (cccInit s).cfail = s.cfail := rfl
@[simp] theorem cccInit_err (s : State) : (cccInit s).err = s.err := rfl
@[simp] theorem cccInit_rlen (s : State) : (cccInit s).rlen = s.rlen := rfl
@[simp] theorem cccInit_lt (s : State) : (cccInit s).lt = s.lt := rfl
@[simp] theorem cccInit_ls (s : State) : (cccInit s).ls = s.ls := rfl
@[simp] theorem cccInit_mp (s : State) : (cccInit s).mp = s.mp := rfl
@[simp] theorem cccInit_mc (s : State) : (cccInit s).mc = s.mc := rfl
@[simp] theorem cccInit_m (s : State) : (cccInit s).m = s.m := rfl
@[simp] theorem cccInit_ccc (s : State) : (cccInit s).ccc = blockXor s.mc s.tweak := rfl
@[simp] theorem cccInit_func (s : State) : (cccInit s).func = s.func := rfl
@[simp] theorem cccInit_dir (s : State) : (cccInit s).dir = s.dir := rfl
@[simp] theorem cccInit_mcnt (s : State) : (cccInit s).mcnt = s.mcnt := rfl
@[simp] theorem cccInit_j (s : State) : (cccInit s).j = 1 := rfl
@[simp] theorem cccInit_phase (s : State) : (cccInit s).phase = if s.mcnt.toNat > 1 then .cccAcc else .cccSt := rfl
@[simp] theorem cccInit_cbs (s : State) : (cccInit s).cbs = s.cbs := rfl
@[simp] theorem cccInit_schedule (s : State) : (cccInit s).schedule = s.schedule := rfl
@[simp] theorem cccInit_reads (s : State) : (cccInit s).reads = s.reads := rfl

/-! ### cccSt -/

@[simp] theorem cccSt_ibuf (s : State) : (cccSt s).ibuf = s.ibuf := rfl
@[simp] theorem cccSt_obuf (s : State) : (cccSt s).obuf = Memory.setBlock s.obuf 0 s.ccc := rfl
@[simp] theorem cccSt_tweak (s : State) : (cccSt s).tweak = s.tweak := rfl
@[simp] theorem cccSt_tlen (s : State) : (cccSt s).tlen = s.tlen := rfl
@[simp] theorem cccSt_mlen (s : State) : (cccSt s).mlen = s.mlen := rfl
@[simp] theorem cccSt_busy (s : State) : (cccSt s).busy = s.busy := rfl
@[simp] theorem cccSt_done (s : State) : (cccSt s).done = s.done := rfl
@[simp] theorem cccSt_cfail (s : State) : (cccSt s).cfail = s.cfail := rfl
@[simp] theorem cccSt_err (s : State) : (cccSt s).err = s.err := rfl
@[simp] theorem cccSt_rlen (s : State) : (cccSt s).rlen = s.rlen := rfl
@[simp] theorem cccSt_lt (s : State) : (cccSt s).lt = s.lt := rfl
@[simp] theorem cccSt_ls (s : State) : (cccSt s).ls = s.ls := rfl
@[simp] theorem cccSt_mp (s : State) : (cccSt s).mp = s.mp := rfl
@[simp] theorem cccSt_mc (s : State) : (cccSt s).mc = s.mc := rfl
@[simp] theorem cccSt_m (s : State) : (cccSt s).m = s.m := rfl
@[simp] theorem cccSt_ccc (s : State) : (cccSt s).ccc = s.ccc := rfl
@[simp] theorem cccSt_func (s : State) : (cccSt s).func = s.func := rfl
@[simp] theorem cccSt_dir (s : State) : (cccSt s).dir = s.dir := rfl
@[simp] theorem cccSt_mcnt (s : State) : (cccSt s).mcnt = s.mcnt := rfl
@[simp] theorem cccSt_j (s : State) : (cccSt s).j = 0 := rfl
@[simp] theorem cccSt_phase (s : State) : (cccSt s).phase = .p3 := rfl
@[simp] theorem cccSt_cbs (s : State) : (cccSt s).cbs = s.cbs := rfl
@[simp] theorem cccSt_schedule (s : State) : (cccSt s).schedule = s.schedule := rfl
@[simp] theorem cccSt_reads (s : State) : (cccSt s).reads = s.reads := rfl

/-! ### advance -/

@[simp] theorem advance_ibuf (q : Phase) (s : State) : (advance q s).ibuf = s.ibuf := by unfold advance; split <;> rfl
@[simp] theorem advance_obuf (q : Phase) (s : State) : (advance q s).obuf = s.obuf := by unfold advance; split <;> rfl
@[simp] theorem advance_tweak (q : Phase) (s : State) : (advance q s).tweak = s.tweak := by unfold advance; split <;> rfl
@[simp] theorem advance_tlen (q : Phase) (s : State) : (advance q s).tlen = s.tlen := by unfold advance; split <;> rfl
@[simp] theorem advance_mlen (q : Phase) (s : State) : (advance q s).mlen = s.mlen := by unfold advance; split <;> rfl
@[simp] theorem advance_busy (q : Phase) (s : State) : (advance q s).busy = s.busy := by unfold advance; split <;> rfl
@[simp] theorem advance_done (q : Phase) (s : State) : (advance q s).done = s.done := by unfold advance; split <;> rfl
@[simp] theorem advance_cfail (q : Phase) (s : State) : (advance q s).cfail = s.cfail := by unfold advance; split <;> rfl
@[simp] theorem advance_err (q : Phase) (s : State) : (advance q s).err = s.err := by unfold advance; split <;> rfl
@[simp] theorem advance_rlen (q : Phase) (s : State) : (advance q s).rlen = s.rlen := by unfold advance; split <;> rfl
@[simp] theorem advance_lt (q : Phase) (s : State) : (advance q s).lt = s.lt := by unfold advance; split <;> rfl
@[simp] theorem advance_ls (q : Phase) (s : State) : (advance q s).ls = s.ls := by unfold advance; split <;> rfl
@[simp] theorem advance_mp (q : Phase) (s : State) : (advance q s).mp = s.mp := by unfold advance; split <;> rfl
@[simp] theorem advance_mc (q : Phase) (s : State) : (advance q s).mc = s.mc := by unfold advance; split <;> rfl
@[simp] theorem advance_m (q : Phase) (s : State) : (advance q s).m = s.m := by unfold advance; split <;> rfl
@[simp] theorem advance_ccc (q : Phase) (s : State) : (advance q s).ccc = s.ccc := by unfold advance; split <;> rfl
@[simp] theorem advance_func (q : Phase) (s : State) : (advance q s).func = s.func := by unfold advance; split <;> rfl
@[simp] theorem advance_dir (q : Phase) (s : State) : (advance q s).dir = s.dir := by unfold advance; split <;> rfl
@[simp] theorem advance_mcnt (q : Phase) (s : State) : (advance q s).mcnt = s.mcnt := by unfold advance; split <;> rfl
@[simp] theorem advance_j (q : Phase) (s : State) : (advance q s).j = if s.j.toNat + 1 = s.mcnt.toNat then 0 else s.j + 1 := by unfold advance; split <;> rfl
@[simp] theorem advance_phase (q : Phase) (s : State) : (advance q s).phase = if s.j.toNat + 1 = s.mcnt.toNat then q else s.phase := by unfold advance; split <;> rfl
@[simp] theorem advance_cbs (q : Phase) (s : State) : (advance q s).cbs = s.cbs := by unfold advance; split <;> rfl
@[simp] theorem advance_schedule (q : Phase) (s : State) : (advance q s).schedule = s.schedule := by unfold advance; split <;> rfl
@[simp] theorem advance_reads (q : Phase) (s : State) : (advance q s).reads = s.reads := by unfold advance; split <;> rfl

/-! ### lGen -/

@[simp] theorem lGen_ibuf (s : State) : (lGen s).ibuf = s.ibuf := by simp [lGen]
@[simp] theorem lGen_obuf (s : State) : (lGen s).obuf = if s.func = 4 then Memory.setBlock s.obuf s.j.toNat (double s.ls) else s.obuf := by simp [lGen]
@[simp] theorem lGen_tweak (s : State) : (lGen s).tweak = s.tweak := by simp [lGen]
@[simp] theorem lGen_tlen (s : State) : (lGen s).tlen = s.tlen := by simp [lGen]
@[simp] theorem lGen_mlen (s : State) : (lGen s).mlen = s.mlen := by simp [lGen]
@[simp] theorem lGen_busy (s : State) : (lGen s).busy = s.busy := by simp [lGen]
@[simp] theorem lGen_done (s : State) : (lGen s).done = s.done := by simp [lGen]
@[simp] theorem lGen_cfail (s : State) : (lGen s).cfail = s.cfail := by simp [lGen]
@[simp] theorem lGen_err (s : State) : (lGen s).err = s.err := by simp [lGen]
@[simp] theorem lGen_rlen (s : State) : (lGen s).rlen = s.rlen := by simp [lGen]
@[simp] theorem lGen_lt (s : State) : (lGen s).lt = Memory.setBlock s.lt s.j.toNat (double s.ls) := by simp [lGen]
@[simp] theorem lGen_ls (s : State) : (lGen s).ls = double s.ls := by simp [lGen]
@[simp] theorem lGen_mp (s : State) : (lGen s).mp = s.mp := by simp [lGen]
@[simp] theorem lGen_mc (s : State) : (lGen s).mc = s.mc := by simp [lGen]
@[simp] theorem lGen_m (s : State) : (lGen s).m = s.m := by simp [lGen]
@[simp] theorem lGen_ccc (s : State) : (lGen s).ccc = s.ccc := by simp [lGen]
@[simp] theorem lGen_func (s : State) : (lGen s).func = s.func := by simp [lGen]
@[simp] theorem lGen_dir (s : State) : (lGen s).dir = s.dir := by simp [lGen]
@[simp] theorem lGen_mcnt (s : State) : (lGen s).mcnt = s.mcnt := by simp [lGen]
@[simp] theorem lGen_j (s : State) : (lGen s).j = if s.j.toNat + 1 = s.mcnt.toNat then 0 else s.j + 1 := by simp [lGen]
@[simp] theorem lGen_phase (s : State) : (lGen s).phase = if s.j.toNat + 1 = s.mcnt.toNat then lGenNext s.func else s.phase := by simp [lGen]
@[simp] theorem lGen_cbs (s : State) : (lGen s).cbs = s.cbs := by simp [lGen]
@[simp] theorem lGen_schedule (s : State) : (lGen s).schedule = s.schedule := by simp [lGen]
@[simp] theorem lGen_reads (s : State) : (lGen s).reads = s.reads := by simp [lGen]

/-! ### p1 -/

@[simp] theorem p1_ibuf (c : Cipher) (s : State) : (p1 c s).ibuf = s.ibuf := by simp [p1]
@[simp] theorem p1_obuf (c : Cipher) (s : State) : (p1 c s).obuf = Memory.setBlock s.obuf s.j.toNat (bc c s.dir (blockXor (ib s s.j.toNat) (ltBlock s s.j.toNat))) := by simp [p1]
@[simp] theorem p1_tweak (c : Cipher) (s : State) : (p1 c s).tweak = s.tweak := by simp [p1]
@[simp] theorem p1_tlen (c : Cipher) (s : State) : (p1 c s).tlen = s.tlen := by simp [p1]
@[simp] theorem p1_mlen (c : Cipher) (s : State) : (p1 c s).mlen = s.mlen := by simp [p1]
@[simp] theorem p1_busy (c : Cipher) (s : State) : (p1 c s).busy = s.busy := by simp [p1]
@[simp] theorem p1_done (c : Cipher) (s : State) : (p1 c s).done = s.done := by simp [p1]
@[simp] theorem p1_cfail (c : Cipher) (s : State) : (p1 c s).cfail = s.cfail := by simp [p1]
@[simp] theorem p1_err (c : Cipher) (s : State) : (p1 c s).err = s.err := by simp [p1]
@[simp] theorem p1_rlen (c : Cipher) (s : State) : (p1 c s).rlen = s.rlen := by simp [p1]
@[simp] theorem p1_lt (c : Cipher) (s : State) : (p1 c s).lt = s.lt := by simp [p1]
@[simp] theorem p1_ls (c : Cipher) (s : State) : (p1 c s).ls = s.ls := by simp [p1]
@[simp] theorem p1_mp (c : Cipher) (s : State) : (p1 c s).mp = s.mp := by simp [p1]
@[simp] theorem p1_mc (c : Cipher) (s : State) : (p1 c s).mc = s.mc := by simp [p1]
@[simp] theorem p1_m (c : Cipher) (s : State) : (p1 c s).m = s.m := by simp [p1]
@[simp] theorem p1_ccc (c : Cipher) (s : State) : (p1 c s).ccc = s.ccc := by simp [p1]
@[simp] theorem p1_func (c : Cipher) (s : State) : (p1 c s).func = s.func := by simp [p1]
@[simp] theorem p1_dir (c : Cipher) (s : State) : (p1 c s).dir = s.dir := by simp [p1]
@[simp] theorem p1_mcnt (c : Cipher) (s : State) : (p1 c s).mcnt = s.mcnt := by simp [p1]
@[simp] theorem p1_j (c : Cipher) (s : State) : (p1 c s).j = if s.j.toNat + 1 = s.mcnt.toNat then 0 else s.j + 1 := by simp [p1]
@[simp] theorem p1_phase (c : Cipher) (s : State) : (p1 c s).phase = if s.j.toNat + 1 = s.mcnt.toNat then .mpInit else s.phase := by simp [p1]
@[simp] theorem p1_cbs (c : Cipher) (s : State) : (p1 c s).cbs = s.cbs := by simp [p1]
@[simp] theorem p1_schedule (c : Cipher) (s : State) : (p1 c s).schedule = s.schedule := by simp [p1]
@[simp] theorem p1_reads (c : Cipher) (s : State) : (p1 c s).reads = s.reads := by simp [p1]

/-! ### mpAcc -/

@[simp] theorem mpAcc_ibuf (s : State) : (mpAcc s).ibuf = s.ibuf := by simp [mpAcc]
@[simp] theorem mpAcc_obuf (s : State) : (mpAcc s).obuf = s.obuf := by simp [mpAcc]
@[simp] theorem mpAcc_tweak (s : State) : (mpAcc s).tweak = s.tweak := by simp [mpAcc]
@[simp] theorem mpAcc_tlen (s : State) : (mpAcc s).tlen = s.tlen := by simp [mpAcc]
@[simp] theorem mpAcc_mlen (s : State) : (mpAcc s).mlen = s.mlen := by simp [mpAcc]
@[simp] theorem mpAcc_busy (s : State) : (mpAcc s).busy = s.busy := by simp [mpAcc]
@[simp] theorem mpAcc_done (s : State) : (mpAcc s).done = s.done := by simp [mpAcc]
@[simp] theorem mpAcc_cfail (s : State) : (mpAcc s).cfail = s.cfail := by simp [mpAcc]
@[simp] theorem mpAcc_err (s : State) : (mpAcc s).err = s.err := by simp [mpAcc]
@[simp] theorem mpAcc_rlen (s : State) : (mpAcc s).rlen = s.rlen := by simp [mpAcc]
@[simp] theorem mpAcc_lt (s : State) : (mpAcc s).lt = s.lt := by simp [mpAcc]
@[simp] theorem mpAcc_ls (s : State) : (mpAcc s).ls = s.ls := by simp [mpAcc]
@[simp] theorem mpAcc_mp (s : State) : (mpAcc s).mp = blockXor s.mp (ob s s.j.toNat) := by simp [mpAcc]
@[simp] theorem mpAcc_mc (s : State) : (mpAcc s).mc = s.mc := by simp [mpAcc]
@[simp] theorem mpAcc_m (s : State) : (mpAcc s).m = s.m := by simp [mpAcc]
@[simp] theorem mpAcc_ccc (s : State) : (mpAcc s).ccc = s.ccc := by simp [mpAcc]
@[simp] theorem mpAcc_func (s : State) : (mpAcc s).func = s.func := by simp [mpAcc]
@[simp] theorem mpAcc_dir (s : State) : (mpAcc s).dir = s.dir := by simp [mpAcc]
@[simp] theorem mpAcc_mcnt (s : State) : (mpAcc s).mcnt = s.mcnt := by simp [mpAcc]
@[simp] theorem mpAcc_j (s : State) : (mpAcc s).j = if s.j.toNat + 1 = s.mcnt.toNat then 0 else s.j + 1 := by simp [mpAcc]
@[simp] theorem mpAcc_phase (s : State) : (mpAcc s).phase = if s.j.toNat + 1 = s.mcnt.toNat then .mcEnc else s.phase := by simp [mpAcc]
@[simp] theorem mpAcc_cbs (s : State) : (mpAcc s).cbs = s.cbs := by simp [mpAcc]
@[simp] theorem mpAcc_schedule (s : State) : (mpAcc s).schedule = s.schedule := by simp [mpAcc]
@[simp] theorem mpAcc_reads (s : State) : (mpAcc s).reads = s.reads := by simp [mpAcc]

/-! ### p2 -/

@[simp] theorem p2_ibuf (s : State) : (p2 s).ibuf = s.ibuf := by simp [p2]
@[simp] theorem p2_obuf (s : State) : (p2 s).obuf = Memory.setBlock s.obuf s.j.toNat (blockXor (ob s s.j.toNat) (double s.m)) := by simp [p2]
@[simp] theorem p2_tweak (s : State) : (p2 s).tweak = s.tweak := by simp [p2]
@[simp] theorem p2_tlen (s : State) : (p2 s).tlen = s.tlen := by simp [p2]
@[simp] theorem p2_mlen (s : State) : (p2 s).mlen = s.mlen := by simp [p2]
@[simp] theorem p2_busy (s : State) : (p2 s).busy = s.busy := by simp [p2]
@[simp] theorem p2_done (s : State) : (p2 s).done = s.done := by simp [p2]
@[simp] theorem p2_cfail (s : State) : (p2 s).cfail = s.cfail := by simp [p2]
@[simp] theorem p2_err (s : State) : (p2 s).err = s.err := by simp [p2]
@[simp] theorem p2_rlen (s : State) : (p2 s).rlen = s.rlen := by simp [p2]
@[simp] theorem p2_lt (s : State) : (p2 s).lt = s.lt := by simp [p2]
@[simp] theorem p2_ls (s : State) : (p2 s).ls = s.ls := by simp [p2]
@[simp] theorem p2_mp (s : State) : (p2 s).mp = s.mp := by simp [p2]
@[simp] theorem p2_mc (s : State) : (p2 s).mc = s.mc := by simp [p2]
@[simp] theorem p2_m (s : State) : (p2 s).m = double s.m := by simp [p2]
@[simp] theorem p2_ccc (s : State) : (p2 s).ccc = s.ccc := by simp [p2]
@[simp] theorem p2_func (s : State) : (p2 s).func = s.func := by simp [p2]
@[simp] theorem p2_dir (s : State) : (p2 s).dir = s.dir := by simp [p2]
@[simp] theorem p2_mcnt (s : State) : (p2 s).mcnt = s.mcnt := by simp [p2]
@[simp] theorem p2_j (s : State) : (p2 s).j = if s.j.toNat + 1 = s.mcnt.toNat then 0 else s.j + 1 := by simp [p2]
@[simp] theorem p2_phase (s : State) : (p2 s).phase = if s.j.toNat + 1 = s.mcnt.toNat then .cccInit else s.phase := by simp [p2]
@[simp] theorem p2_cbs (s : State) : (p2 s).cbs = s.cbs := by simp [p2]
@[simp] theorem p2_schedule (s : State) : (p2 s).schedule = s.schedule := by simp [p2]
@[simp] theorem p2_reads (s : State) : (p2 s).reads = s.reads := by simp [p2]

/-! ### cccAcc -/

@[simp] theorem cccAcc_ibuf (s : State) : (cccAcc s).ibuf = s.ibuf := by simp [cccAcc]
@[simp] theorem cccAcc_obuf (s : State) : (cccAcc s).obuf = s.obuf := by simp [cccAcc]
@[simp] theorem cccAcc_tweak (s : State) : (cccAcc s).tweak = s.tweak := by simp [cccAcc]
@[simp] theorem cccAcc_tlen (s : State) : (cccAcc s).tlen = s.tlen := by simp [cccAcc]
@[simp] theorem cccAcc_mlen (s : State) : (cccAcc s).mlen = s.mlen := by simp [cccAcc]
@[simp] theorem cccAcc_busy (s : State) : (cccAcc s).busy = s.busy := by simp [cccAcc]
@[simp] theorem cccAcc_done (s : State) : (cccAcc s).done = s.done := by simp [cccAcc]
@[simp] theorem cccAcc_cfail (s : State) : (cccAcc s).cfail = s.cfail := by simp [cccAcc]
@[simp] theorem cccAcc_err (s : State) : (cccAcc s).err = s.err := by simp [cccAcc]
@[simp] theorem cccAcc_rlen (s : State) : (cccAcc s).rlen = s.rlen := by simp [cccAcc]
@[simp] theorem cccAcc_lt (s : State) : (cccAcc s).lt = s.lt := by simp [cccAcc]
@[simp] theorem cccAcc_ls (s : State) : (cccAcc s).ls = s.ls := by simp [cccAcc]
@[simp] theorem cccAcc_mp (s : State) : (cccAcc s).mp = s.mp := by simp [cccAcc]
@[simp] theorem cccAcc_mc (s : State) : (cccAcc s).mc = s.mc := by simp [cccAcc]
@[simp] theorem cccAcc_m (s : State) : (cccAcc s).m = s.m := by simp [cccAcc]
@[simp] theorem cccAcc_ccc (s : State) : (cccAcc s).ccc = blockXor s.ccc (ob s s.j.toNat) := by simp [cccAcc]
@[simp] theorem cccAcc_func (s : State) : (cccAcc s).func = s.func := by simp [cccAcc]
@[simp] theorem cccAcc_dir (s : State) : (cccAcc s).dir = s.dir := by simp [cccAcc]
@[simp] theorem cccAcc_mcnt (s : State) : (cccAcc s).mcnt = s.mcnt := by simp [cccAcc]
@[simp] theorem cccAcc_j (s : State) : (cccAcc s).j = if s.j.toNat + 1 = s.mcnt.toNat then 0 else s.j + 1 := by simp [cccAcc]
@[simp] theorem cccAcc_phase (s : State) : (cccAcc s).phase = if s.j.toNat + 1 = s.mcnt.toNat then .cccSt else s.phase := by simp [cccAcc]
@[simp] theorem cccAcc_cbs (s : State) : (cccAcc s).cbs = s.cbs := by simp [cccAcc]
@[simp] theorem cccAcc_schedule (s : State) : (cccAcc s).schedule = s.schedule := by simp [cccAcc]
@[simp] theorem cccAcc_reads (s : State) : (cccAcc s).reads = s.reads := by simp [cccAcc]

/-! ### p3 -/

@[simp] theorem p3_ibuf (c : Cipher) (s : State) : (p3 c s).ibuf = s.ibuf := by simp [p3]
@[simp] theorem p3_obuf (c : Cipher) (s : State) : (p3 c s).obuf = Memory.setBlock s.obuf s.j.toNat (blockXor (bc c s.dir (ob s s.j.toNat)) (ltBlock s s.j.toNat)) := by simp [p3]
@[simp] theorem p3_tweak (c : Cipher) (s : State) : (p3 c s).tweak = s.tweak := by simp [p3]
@[simp] theorem p3_tlen (c : Cipher) (s : State) : (p3 c s).tlen = s.tlen := by simp [p3]
@[simp] theorem p3_mlen (c : Cipher) (s : State) : (p3 c s).mlen = s.mlen := by simp [p3]
@[simp] theorem p3_busy (c : Cipher) (s : State) : (p3 c s).busy = s.busy := by simp [p3]
@[simp] theorem p3_done (c : Cipher) (s : State) : (p3 c s).done = s.done := by simp [p3]
@[simp] theorem p3_cfail (c : Cipher) (s : State) : (p3 c s).cfail = s.cfail := by simp [p3]
@[simp] theorem p3_err (c : Cipher) (s : State) : (p3 c s).err = s.err := by simp [p3]
@[simp] theorem p3_rlen (c : Cipher) (s : State) : (p3 c s).rlen = s.rlen := by simp [p3]
@[simp] theorem p3_lt (c : Cipher) (s : State) : (p3 c s).lt = s.lt := by simp [p3]
@[simp] theorem p3_ls (c : Cipher) (s : State) : (p3 c s).ls = s.ls := by simp [p3]
@[simp] theorem p3_mp (c : Cipher) (s : State) : (p3 c s).mp = s.mp := by simp [p3]
@[simp] theorem p3_mc (c : Cipher) (s : State) : (p3 c s).mc = s.mc := by simp [p3]
@[simp] theorem p3_m (c : Cipher) (s : State) : (p3 c s).m = s.m := by simp [p3]
@[simp] theorem p3_ccc (c : Cipher) (s : State) : (p3 c s).ccc = s.ccc := by simp [p3]
@[simp] theorem p3_func (c : Cipher) (s : State) : (p3 c s).func = s.func := by simp [p3]
@[simp] theorem p3_dir (c : Cipher) (s : State) : (p3 c s).dir = s.dir := by simp [p3]
@[simp] theorem p3_mcnt (c : Cipher) (s : State) : (p3 c s).mcnt = s.mcnt := by simp [p3]
@[simp] theorem p3_j (c : Cipher) (s : State) : (p3 c s).j = if s.j.toNat + 1 = s.mcnt.toNat then 0 else s.j + 1 := by simp [p3]
@[simp] theorem p3_phase (c : Cipher) (s : State) : (p3 c s).phase = if s.j.toNat + 1 = s.mcnt.toNat then .finish else s.phase := by simp [p3]
@[simp] theorem p3_cbs (c : Cipher) (s : State) : (p3 c s).cbs = s.cbs := by simp [p3]
@[simp] theorem p3_schedule (c : Cipher) (s : State) : (p3 c s).schedule = s.schedule := by simp [p3]
@[simp] theorem p3_reads (c : Cipher) (s : State) : (p3 c s).reads = s.reads := by simp [p3]

end Sys2Proof.Machine
end

