-- ==== Sys2Proof/Laws/Sequencer.lean ====
section
/-! SUPPORT. The sequencer: how runs of micro-steps compose, what a whole loop phase does, and what VALIDATE answers. -/

namespace Sys2Proof.Machine

/-! ### Runs -/

theorem seqRun_zero (c : Cipher) (s : State) : seqRun c 0 s = .next s := rfl

theorem seqRun_succ {c : Cipher} {s t : State} (h : seqStep c s = .next t) (n : Nat) :
    seqRun c (n + 1) s = seqRun c n t := by simp [seqRun, h]

theorem seqRun_add {c : Cipher} {s t : State} {k : Nat} (h : seqRun c k s = .next t) (n : Nat) :
    seqRun c (k + n) s = seqRun c n t := by
  induction k generalizing s with
  | zero => simp only [seqRun_zero, Host.Outcome.next.injEq] at h; simp [h]
  | succ k ih =>
    have e : k + 1 + n = (k + n) + 1 := by omega
    rw [e]
    simp only [seqRun] at h ⊢
    cases hs : seqStep c s with
    | next u => simp only [hs] at h; exact ih h
    | fault r => simp [hs] at h
    | refused r => simp [hs] at h

theorem countRun_succ {c : Cipher} {s t : State} (f : Phase → Nat) (h : seqStep c s = .next t) (n : Nat) :
    countRun f c (n + 1) s = f s.phase + countRun f c n t := by simp [countRun, h]

theorem countRun_add {c : Cipher} {s t : State} {k : Nat} (f : Phase → Nat) (h : seqRun c k s = .next t) (n : Nat) :
    countRun f c (k + n) s = countRun f c k s + countRun f c n t := by
  induction k generalizing s with
  | zero => simp only [seqRun_zero, Host.Outcome.next.injEq] at h; simp [h, countRun]
  | succ k ih =>
    have e : k + 1 + n = (k + n) + 1 := by omega
    rw [e]
    simp only [seqRun, countRun] at h ⊢
    cases hs : seqStep c s with
    | next u => simp only [hs] at h; simp only [ih h, Nat.add_assoc]
    | fault r => simp [hs] at h
    | refused r => simp [hs] at h

/-! ### Iterated rules -/

/-- A field that a rule leaves alone is left alone by any number of its executions. -/
theorem iterate_keeps {α : Type} {f : State → State} (field : State → α) (h : ∀ s, field (f s) = field s) (n : Nat)
    (s : State) : field (f^[n] s) = field s := by
  induction n generalizing s with
  | zero => rfl
  | succ n ih => rw [Function.iterate_succ_apply, ih, h]

/-- A property that a rule keeps is kept by any number of its executions. -/
theorem iterate_invariant {f : State → State} {P : State → Prop} (h : ∀ s, P s → P (f s)) (n : Nat) (s : State)
    (hs : P s) : P (f^[n] s) := by
  induction n generalizing s with
  | zero => exact hs
  | succ n ih => rw [Function.iterate_succ_apply]; exact ih _ (h _ hs)

/-- J + 1 does not wrap inside a loop (10_state R38). -/
theorem toNat_succ_of_lt {j : BitVec 8} {m : Nat} (h : j.toNat + 1 < m) (hm : m ≤ 128) : (j + 1).toNat = j.toNat + 1 := by
  rw [BitVec.toNat_add]
  simp
  omega

/-- A whole loop phase: entered with `k + 1` Blocks to go, it takes `k + 1` micro-steps, executes its rule `k + 1` times
with J ascending, and leaves for `q` with J back at 0. `P` is whatever else the rule's step needs and keeps. -/
theorem seqRun_loop {c : Cipher} {f : State → State} {p q : Phase} {P : State → Prop}
    (hstep : ∀ s, P s → s.phase = p → loopReady s = true → seqStep c s = .next (f s))
    (hP : ∀ s, P s → P (f s))
    (hj : ∀ s, (f s).j = if s.j.toNat + 1 = s.mcnt.toNat then 0 else s.j + 1)
    (hph : ∀ s, P s → (f s).phase = if s.j.toNat + 1 = s.mcnt.toNat then q else s.phase)
    (hm : ∀ s, (f s).mcnt = s.mcnt) (k : Nat) :
    ∀ s, P s → s.phase = p → s.j.toNat + (k + 1) = s.mcnt.toNat → s.mcnt.toNat ≤ 128 →
      seqRun c (k + 1) s = .next (f^[k + 1] s) ∧ (f^[k + 1] s).phase = q ∧ (f^[k + 1] s).j = 0 ∧
        (f^[k + 1] s).mcnt = s.mcnt ∧ P (f^[k + 1] s) := by
  induction k with
  | zero =>
    intro s hs hp hk hmc
    have hready : loopReady s = true := by
      simp only [loopReady, Config.maxBlk, Bool.and_eq_true, decide_eq_true_eq]
      omega
    have hlast : s.j.toNat + 1 = s.mcnt.toNat := by omega
    refine ⟨?_, ?_, ?_, hm s, hP s hs⟩
    · rw [seqRun_succ (hstep s hs hp hready), seqRun_zero]; rfl
    · simp [hph s hs, hlast]
    · simp [hj s, hlast]
  | succ k ih =>
    intro s hs hp hk hmc
    have hready : loopReady s = true := by
      simp only [loopReady, Config.maxBlk, Bool.and_eq_true, decide_eq_true_eq]
      omega
    have hnot : ¬ (s.j.toNat + 1 = s.mcnt.toNat) := by omega
    have hj' : (f s).j.toNat = s.j.toNat + 1 := by
      rw [hj s, if_neg hnot]
      exact toNat_succ_of_lt (m := s.mcnt.toNat) (by omega) hmc
    have hp' : (f s).phase = p := by rw [hph s hs, if_neg hnot, hp]
    have := ih (f s) (hP s hs) hp' (by rw [hj', hm s]; omega) (by rw [hm s]; exact hmc)
    rw [hm s] at this
    rw [Function.iterate_succ_apply, seqRun_succ (hstep s hs hp hready)]
    exact this

/-- J inside a loop: after `n` executions that do not end the loop it has risen by `n`. -/
theorem iterate_j {f : State → State} (hj : ∀ s, (f s).j = if s.j.toNat + 1 = s.mcnt.toNat then 0 else s.j + 1)
    (hm : ∀ s, (f s).mcnt = s.mcnt) (n : Nat) (s : State) (h : s.j.toNat + n < s.mcnt.toNat)
    (hmc : s.mcnt.toNat ≤ 128) : (f^[n] s).j.toNat = s.j.toNat + n := by
  induction n generalizing s with
  | zero => rfl
  | succ n ih =>
    have hnot : ¬ (s.j.toNat + 1 = s.mcnt.toNat) := by omega
    have hj' : (f s).j.toNat = s.j.toNat + 1 := by
      rw [hj s, if_neg hnot]
      exact toNat_succ_of_lt (m := s.mcnt.toNat) (by omega) hmc
    rw [Function.iterate_succ_apply, ih (f s) (by rw [hj', hm s]; omega) (by rw [hm s]; exact hmc), hj']
    omega

/-! ### VALIDATE -/

/-- What passing VALIDATE says of a command that uses the cipher, the tweak or the length (45_handle R203). -/
theorem validationError_none {s : State} (h : validationError s = none) :
    (usesCipher s.func = true → s.cbs = 16) ∧ (usesTweak s.func = true → s.tlen.toNat = 16) ∧
      (usesLength s.func = true →
        s.mlen.toNat % 16 = 0 ∧ 1 ≤ blockCount s ∧ blockCount s ≤ 128 ∧ s.mlen.toNat = 16 * blockCount s) := by
  unfold validationError at h
  split at h
  · simp at h
  split at h
  · simp at h
  split at h
  · simp at h
  split at h
  · simp at h
  rename_i h1 h2 h3 h4
  simp only [Config.blk, Config.twk, Config.maxBlk] at h1 h2 h3 h4
  refine ⟨fun hc => ?_, fun ht => ?_, fun hl => ?_⟩
  · simpa [hc] using h1
  · simpa [ht] using h2
  · simp only [hl, Bool.true_and, Bool.or_eq_true, beq_iff_eq, bne_iff_ne, ne_eq, not_or, not_not] at h3
    simp only [hl, Bool.true_and, Bool.or_eq_true, beq_iff_eq, decide_eq_true_eq, not_or, not_lt] at h4
    have hb : blockCount s = s.mlen.toNat / 16 := rfl
    omega

/-- VALIDATE passes when every check that concerns the command does (45_handle R203). -/
theorem validationError_eq_none {s : State} (hc : usesCipher s.func = true → s.cbs = 16)
    (ht : usesTweak s.func = true → s.tlen.toNat = 16)
    (hl : usesLength s.func = true → s.mlen.toNat % 16 = 0 ∧ 16 ≤ s.mlen.toNat ∧ s.mlen.toNat ≤ 2048) :
    validationError s = none := by
  have hb : blockCount s = s.mlen.toNat / 16 := rfl
  unfold validationError
  rw [if_neg, if_neg, if_neg, if_neg]
  · intro h
    simp only [Bool.and_eq_true, Bool.or_eq_true, beq_iff_eq, decide_eq_true_eq] at h
    have := hl h.1
    simp only [Config.maxBlk] at h
    omega
  · intro h
    simp only [Bool.and_eq_true, Bool.or_eq_true, beq_iff_eq, bne_iff_ne, Config.blk] at h
    have := hl h.1
    omega
  · intro h
    simp only [Bool.and_eq_true, bne_iff_ne, Config.twk] at h
    exact h.2 (ht h.1)
  · intro h
    simp only [Bool.and_eq_true, bne_iff_ne, Config.blk] at h
    exact h.2 (hc h.1)

/-- Only the four errors of VALIDATE are its answers (60_exceptions R217). -/
theorem validationError_some {s : State} {e : Err} (h : validationError s = some e) :
    e = .invalidBlockSize ∨ e = .invalidTweakLength ∨ e = .invalidMessageLength ∨ e = .blockCountOutOfRange := by
  unfold validationError at h
  split at h
  · simp_all
  split at h
  · simp_all
  split at h
  · simp_all
  split at h <;> simp_all

theorem validate_of_none {s : State} (h : validationError s = none) : validate s = dispatch s := by simp [validate, h]

theorem validate_of_some {s : State} {e : Err} (h : validationError s = some e) : validate s = fail e s := by
  simp [validate, h]

/-- `validationError` reads FUNC, CBS, TLEN and MLEN and nothing else. -/
theorem validationError_congr {s t : State} (hf : s.func = t.func) (hc : s.cbs = t.cbs) (ht : s.tlen = t.tlen)
    (hm : s.mlen = t.mlen) : validationError s = validationError t := by
  unfold validationError blockCount
  rw [hf, hc, ht, hm]

/-- DBL and BXOR check nothing (40_doubler R115, 41_blockxor R128). -/
theorem validationError_issue_dbl (s : State) : validationError (issue .dbl s) = none := by
  have h : (issue .dbl s).func = 1 := rfl
  unfold validationError
  rw [h]
  rfl

theorem validationError_issue_bxor (s : State) : validationError (issue .bxor s) = none := by
  have h : (issue .bxor s).func = 2 := rfl
  unfold validationError
  rw [h]
  rfl

/-! ### Commands -/

/-- Everything a command can do: nothing while BUSY, `fail` when VALIDATE finds an error, its phases otherwise. -/
theorem command_cases (i : Instr) (body : State → State) (s : State) :
    (s.busy = true ∧ command i body s = s) ∨
    (s.busy = false ∧ ∃ e, validationError (issue i s) = some e ∧ command i body s = fail e (issue i s)) ∨
    (s.busy = false ∧ validationError (issue i s) = none ∧ command i body s = finish (body (dispatch (issue i s)))) := by
  unfold command
  cases hb : s.busy with
  | true => simp
  | false =>
    cases hv : validationError (issue i s) with
    | none => simp
    | some e => simp

theorem command_of_busy {s : State} (h : s.busy = true) (i : Instr) (body : State → State) : command i body s = s := by
  simp [command, h]

theorem command_of_error {s : State} {i : Instr} {e : Err} (hb : s.busy = false)
    (h : validationError (issue i s) = some e) (body : State → State) : command i body s = fail e (issue i s) := by
  simp [command, hb, h]

theorem command_of_valid {s : State} {i : Instr} (hb : s.busy = false) (h : validationError (issue i s) = none)
    (body : State → State) : command i body s = finish (body (dispatch (issue i s))) := by
  simp [command, hb, h]

end Sys2Proof.Machine
end

