-- ==== Sys2Proof/Laws/Step.lean ====
section
/-! SUPPORT. What one step of the machine can do, said once: by event, by host address, by sequencer phase. And runs. -/

namespace Sys2Proof.Machine

/-- Everything a host write can do (20_memory R62). -/
theorem hostWrite_cases (a : Addr) (v : Byte) (s : State) :
    (s.busy = true ∧ hostWrite a v s = s) ∨
    (s.busy = false ∧ a.toNat < 2048 ∧ hostWrite a v s = { s with ibuf := Memory.write s.ibuf a.toNat v }) ∨
    (s.busy = false ∧ 4096 ≤ a.toNat ∧ a.toNat ≤ 4111 ∧
      hostWrite a v s = { s with tweak := setByte s.tweak (a.toNat - 4096) v }) ∨
    (s.busy = false ∧ a.toNat = 4112 ∧ hostWrite a v s = { s with tlen := v }) ∨
    (s.busy = false ∧ a.toNat = 4113 ∧ hostWrite a v s = issueByte v s) ∨
    (s.busy = false ∧ a.toNat = 4114 ∧ hostWrite a v s = { s with mlen := (s.mlen &&& 0xFF00) ||| v.zeroExtend 16 }) ∨
    (s.busy = false ∧ a.toNat = 4115 ∧
      hostWrite a v s = { s with mlen := (s.mlen &&& 0x00FF) ||| (v.zeroExtend 16 <<< 8) }) ∨
    (s.busy = false ∧ (2048 ≤ a.toNat ∧ a.toNat < 4096 ∨ 4115 < a.toNat) ∧ hostWrite a v s = s) := by
  unfold hostWrite
  split
  · simp_all
  · rename_i hb
    simp only [Bool.not_eq_true] at hb
    split
    · simp_all
    · split
      · simp_all
      · split
        · simp_all
        · split
          · simp_all
          · split
            · simp_all
            · split
              · simp_all
              · right; right; right; right; right; right; right
                exact ⟨hb, by omega, rfl⟩

theorem hostWrite_of_busy {s : State} (h : s.busy = true) (a : Addr) (v : Byte) : hostWrite a v s = s := by
  simp [hostWrite, h]

/-- `issue(v)` is the issue of a command or the illegal one (30_encoding R96). -/
theorem issueByte_cases (v : Byte) (s : State) :
    (∃ i, decode v = .ok i ∧ issueByte v s = issue i s) ∨
    (∃ e, decode v = .error e ∧ issueByte v s = issueIllegal s) := by
  cases h : decode v <;> simp [issueByte, h]

/-- Every command is `command` over some body, which fits the cipher and the command. -/
theorem effect_eq_command (c : Cipher) (i : Instr) (s : State) :
    effect c i s = command i
      (match i with
        | .dbl => uDbl | .bxor => uXor | .ciphE | .ciphD => uCiph c | .lgen => tableBody c
        | .emeE | .emeD => emeBody c) s := by
  cases i <;> rfl

theorem exec_eq_effect (i : Instr) (s : State) : exec i s = .next (effect Config.cipher i s) := by cases i <;> rfl

theorem effect_of_busy {s : State} (h : s.busy = true) (c : Cipher) (i : Instr) : effect c i s = s := by
  rw [effect_eq_command, command_of_busy h]

/-- Everything one step can do: the next event's effect on the rest of the schedule, or the sequencer's own step. -/
theorem step_cases {s t : State} (h : step s = .next t) :
    (s.schedule = [] ∧ seqStep Config.cipher s = .next t) ∨
    ∃ rest, (
      (∃ a v, s.schedule = .write a v :: rest ∧ t = hostWrite a v { s with schedule := rest }) ∨
      (∃ a, s.schedule = .read a :: rest ∧ t = recordRead a { s with schedule := rest }) ∨
      (s.schedule = .seq :: rest ∧ seqStep Config.cipher { s with schedule := rest } = .next t) ∨
      (∃ d, s.schedule = .reset d :: rest ∧ t = resetWith d { s with schedule := rest }) ∨
      (∃ v i, s.schedule = .command v :: rest ∧ decode v = .ok i ∧
        t = effect Config.cipher i { s with schedule := rest }) ∨
      ∃ v e, s.schedule = .command v :: rest ∧ decode v = .error e ∧
        t = hostWrite cmdAddr v { s with schedule := rest }) := by
  unfold step stepOver at h
  split at h
  · exact .inl ⟨‹_›, h⟩
  · rename_i e rest hs
    refine .inr ⟨rest, ?_⟩
    cases e with
    | write a v => exact .inl ⟨a, v, hs, by simpa [applyEvent] using h.symm⟩
    | read a => exact .inr (.inl ⟨a, hs, by simpa [applyEvent] using h.symm⟩)
    | seq => exact .inr (.inr (.inl ⟨hs, h⟩))
    | reset d => exact .inr (.inr (.inr (.inl ⟨d, hs, by simpa [applyEvent] using h.symm⟩)))
    | command v =>
      cases hd : decode v with
      | ok i =>
        simp only [applyEvent, hd, exec_eq_effect, Host.Outcome.next.injEq] at h
        exact .inr (.inr (.inr (.inr (.inl ⟨v, i, hs, hd, h.symm⟩))))
      | error e =>
        simp only [applyEvent, hd, Host.Outcome.next.injEq] at h
        exact .inr (.inr (.inr (.inr (.inr ⟨v, e, hs, hd, h.symm⟩))))

/-- A run of `k + n` steps is a run of `n` after a run of `k`. -/
theorem run_add {k : Nat} {s t : State} (h : Host.Core.run Sys2Proof.core k s = .next t) (n : Nat) :
    Host.Core.run Sys2Proof.core (k + n) s = Host.Core.run Sys2Proof.core n t := by
  induction k generalizing s with
  | zero => cases h; rw [Nat.zero_add]
  | succ k ih =>
    rw [show k + 1 + n = (k + n) + 1 by omega]
    simp only [Host.Core.run] at h ⊢
    cases hs : Sys2Proof.core.step s with
    | next u => rw [hs] at h; exact ih h
    | fault r => rw [hs] at h; cases h
    | refused r => rw [hs] at h; cases h

theorem run_succ {s t : State} (h : step s = .next t) (n : Nat) :
    Host.Core.run Sys2Proof.core (n + 1) s = Host.Core.run Sys2Proof.core n t := by
  have h' : Sys2Proof.core.step s = .next t := h
  simp [Host.Core.run, h']

/-- The state after reset is the RESET event's, with the all-zero draw, on a machine with a 16-byte capability. -/
theorem reset_eq_resetWith (s : State) (hc : s.cbs = 16) (hs : s.schedule = []) (hr : s.reads = []) :
    resetWith Draw.zero s = State.reset := by
  apply State.ext <;> simp [resetWith, State.reset, Draw.zero, hc, hs, hr] <;> rfl

end Sys2Proof.Machine
end

