-- ==== Sys2Proof/Tests/Slice0.lean ====
section
/-! SUPPORT. Small tests: the expected values are those of spec/95_test_vectors.md, 40_doubler section 4 and 30_encoding,
never the model's own. Then, for every obligation with hypotheses, a witness that meets them together, clause by clause. -/

namespace Sys2Proof.Tests

open Sys2Proof.Machine

/-! ### Helpers -/

/-- A Block written as the spec writes it, byte 0 first: the number's most significant byte is byte 0. -/
def hex (n : Nat) : Block := blockOfBytes ((List.range 16).map fun i => BitVec.ofNat 8 (n / 256 ^ (15 - i)))

/-- K1 of 95 section 1. -/
def k1 : Block := hex 0x00112233445566778899aabbccddeeff

/-- TOY1 of 95 section 1: byte `i` of the result is byte `i + 1` of the input XOR `K1[i]`. -/
def toy1 : Cipher where
  E X := (X >>> 8 ||| X <<< 120) ^^^ k1
  D Y := (Y ^^^ k1) <<< 8 ||| (Y ^^^ k1) >>> 120

/-- IDENT of 95 section 1. -/
def ident : Cipher := ⟨id, id⟩

/-- A fresh machine with the given Blocks as message and tweak. -/
def given (tweak : Block) (msg : List Block) : State :=
  { State.reset with
    tweak := tweak, tlen := 16, mlen := BitVec.ofNat 16 (16 * msg.length)
    ibuf := Memory.writeBytes [] 0 (bytesOfBlocks msg) }

/-- Common inputs of 95 section 3.5. -/
def tw : Block := hex 0xa0a1a2a3a4a5a6a7a8a9aaabacadaeaf
def p0 : Block := hex 0x000102030405060708090a0b0c0d0e0f
def p1 : Block := hex 0x101112131415161718191a1b1c1d1e1f
def p2 : Block := hex 0x202122232425262728292a2b2c2d2e2f

/-- The first `m` Blocks of OBUF. -/
def result (m : Nat) (s : State) : List Block := (List.range m).map (ob s)

/-- A fresh machine on a capability with another block size (BAD32 of 95 section 1), as reset leaves it (45_handle R200). -/
def bad32 : State := { State.reset with cbs := 32, cfail := true, err := .unsupportedBlockSize }

/-! ### WellFormed refuses, check by check (30_encoding R92) -/

theorem test_zero4_must_be_zero : (Cmd8.mk 1 1 0).zero4Ok = false ∧ (Cmd8.mk 1 1 0).wellFormed = false := by decide
theorem test_func_000_reserved : (Cmd8.mk 0 0 0).funcOk = false ∧ (Cmd8.mk 0 0 0).wellFormed = false := by decide
theorem test_func_110_reserved : (Cmd8.mk 0 6 0).funcOk = false ∧ (Cmd8.mk 0 6 0).wellFormed = false := by decide
theorem test_func_111_reserved : (Cmd8.mk 0 7 1).funcOk = false ∧ (Cmd8.mk 0 7 1).wellFormed = false := by decide
theorem test_dbl_has_no_direction : (Cmd8.mk 0 1 1).dirOk = false ∧ (Cmd8.mk 0 1 1).wellFormed = false := by decide
theorem test_bxor_has_no_direction : (Cmd8.mk 0 2 1).dirOk = false ∧ (Cmd8.mk 0 2 1).wellFormed = false := by decide
theorem test_lgen_has_no_direction : (Cmd8.mk 0 4 1).dirOk = false ∧ (Cmd8.mk 0 4 1).wellFormed = false := by decide

/-! ### Decoding: each command's byte written out as ZERO4 FUNC DIR (30_encoding R92, R93) -/

theorem test_decode_dbl : decode (0b0000#4 ++ 0b001#3 ++ 0b0#1) = .ok .dbl := by decide
theorem test_decode_bxor : decode (0b0000#4 ++ 0b010#3 ++ 0b0#1) = .ok .bxor := by decide
theorem test_decode_ciphE : decode (0b0000#4 ++ 0b011#3 ++ 0b0#1) = .ok .ciphE := by decide
theorem test_decode_ciphD : decode (0b0000#4 ++ 0b011#3 ++ 0b1#1) = .ok .ciphD := by decide
theorem test_decode_lgen : decode (0b0000#4 ++ 0b100#3 ++ 0b0#1) = .ok .lgen := by decide
theorem test_decode_emeE : decode (0b0000#4 ++ 0b101#3 ++ 0b0#1) = .ok .emeE := by decide
theorem test_decode_emeD : decode (0b0000#4 ++ 0b101#3 ++ 0b1#1) = .ok .emeD := by decide
theorem test_table_words : [0x02, 0x04, 0x06, 0x07, 0x08, 0x0A, 0x0B].map (decodeTableWord 8) =
    [some .dbl, some .bxor, some .ciphE, some .ciphD, some .lgen, some .emeE, some .emeD] := by decide

/-- The illegal bytes of 95 section 3.7, and why. -/
theorem test_illegal_bytes :
    [0x00, 0x01, 0x03, 0x05, 0x09, 0x0C, 0x0D, 0x0E, 0x0F, 0x10, 0x12, 0x1A, 0x8A, 0xFF].map (decodeTableWord 8) =
      List.replicate 14 none ∧
    decode 0x0E = .error .reservedFunc ∧ decode 0x03 = .error .directionNotZero ∧ decode 0x12 = .error .zero4NotZero := by
  decide

/-! ### The commands (95 sections 3.1 to 3.7) -/

theorem test_dbl_reduces : (ob (effect toy1 .dbl (given 0 [hex 0x000102030405060708090a0b0c0d0e8f])) 0) =
    hex 0x87020406080a0c0e10121416181a1c1e := by decide +kernel

theorem test_dbl_carries : (ob (effect toy1 .dbl (given 0 [hex 0x80000000000000000000000000000000])) 0) =
    hex 0x00010000000000000000000000000000 := by decide +kernel

theorem test_bxor : (ob (effect toy1 .bxor
      (given 0 [hex 0x00112233445566778899aabbccddeeff, hex 0x0f0e0d0c0b0a09080706050403020100])) 0) =
    hex 0x0f1f2f3f4f5f6f7f8f9fafbfcfdfefff := by decide +kernel

/-- "also on a BAD32 instance" (95 section 3.2). -/
theorem test_bxor_on_bad32 : (effect toy1 .bxor bad32).err = .none ∧ (effect toy1 .bxor bad32).rlen = 16 ∧
    statusByte (effect toy1 .bxor bad32) = 0x06 := by decide +kernel

theorem test_ciphE : (ob (effect toy1 .ciphE (given 0 [p0])) 0) = hex 0x011321374153617f8193a1b7c1d3e1ff := by
  decide +kernel

theorem test_ciphE_on_bad32 : (effect toy1 .ciphE bad32).err = .invalidBlockSize ∧
    (effect toy1 .ciphE bad32).rlen = 0 ∧ statusByte (effect toy1 .ciphE bad32) = 0x06 := by decide +kernel

theorem test_ciphD : (ob (effect toy1 .ciphD (given 0 [p0])) 0) = hex 0xf000102030405060708090a0b0c0d0e0 := by
  decide +kernel

theorem test_lgen : result 4 (effect toy1 .lgen (given 0 [0, 0, 0, 0])) =
    [hex 0x8722446688aaccee1033557799bbddff, hex 0x894588cc105599dd2166aaee3277bbff,
     hex 0x958b109921aa32bb43cc54dd65ee76ff, hex 0xad172132435465768798a9bacbdcedfe] := by decide +kernel

/-- TLEN is not checked, MLEN is (95 section 3.7). -/
theorem test_lgen_length : (effect toy1 .lgen { State.reset with mlen := 24 }).err = .invalidMessageLength := by
  decide +kernel

theorem test_emeE : result 3 (effect toy1 .emeE (given tw [p0, p1, p2])) =
    [hex 0xbd4b9086e3fac57588f823355093274d, hex 0x9cd6c03098ab6a0f0fced929818ec012,
     hex 0x8afdbef7090bfe0432d494dd235934a1] := by decide +kernel

/-- Too long and not a multiple: check 3 first (95 section 3.7). -/
theorem test_emeE_precedence : (effect toy1 .emeE { State.reset with tlen := 16, mlen := 2056 }).err =
    .invalidMessageLength := by decide +kernel

theorem test_emeD : result 3 (effect toy1 .emeD (given tw [p0, p1, p2])) =
    [hex 0xc60e383e37c96e27f3b1d65a897add94, hex 0xe7c32a40dd6bf3fb745d8561c172eae2,
     hex 0x6811e1d68f4bd9add0b2208daf61f387] := by decide +kernel

/-- "two violations: tweak first" (95 section 3.7). -/
theorem test_emeD_precedence : (effect toy1 .emeD { State.reset with tlen := 15, mlen := 2064 }).err =
    .invalidTweakLength := by decide +kernel

/-! ### The transform as a function, against the same table -/

theorem test_transform_encrypts : transformBlocks toy1 tw [p0, p1, p2] 0 =
    [hex 0xbd4b9086e3fac57588f823355093274d, hex 0x9cd6c03098ab6a0f0fced929818ec012,
     hex 0x8afdbef7090bfe0432d494dd235934a1] := by decide +kernel

theorem test_transform_decrypts : transformBlocks toy1 tw [p0, p1, p2] 1 =
    [hex 0xc60e383e37c96e27f3b1d65a897add94, hex 0xe7c32a40dd6bf3fb745d8561c172eae2,
     hex 0x6811e1d68f4bd9add0b2208daf61f387] := by decide +kernel

/-! ### The sequencer and the host port (95 sections 3.3, 3.8) -/

/-- An EME.E of one Block takes 11 steps and 4 cipher calls, one of 128 Blocks 773 steps (95 section 3.7). -/
theorem test_counts : stepCount .emeE (given tw [p0]) = 11 ∧
    countRun cipherCalls toy1 11 (issue .emeE (given tw [p0])) = 4 ∧
    stepCount .emeE { State.reset with tlen := 16, mlen := 2048 } = 773 := by decide +kernel

theorem test_mlen_low_byte_first : (hostWrite 0x1013 0x12 (hostWrite 0x1012 0x34 State.reset)).mlen = 0x1234 := by
  decide +kernel

theorem test_obuf_not_writable : hostWrite 0x0800 0x5a State.reset = State.reset := by decide +kernel

theorem test_last_ibuf_byte : hostRead (hostWrite 0x07ff 0x77 State.reset) 0x07ff = 0x77 := by decide +kernel

/-- Reset with CBS = 32: STATUS 0x04, ERR 0x07 (95 section 3.7). -/
theorem test_reset_bad32 : resetWith Draw.zero { bad32 with err := .none, cfail := false } = bad32 ∧
    hostRead bad32 0x1014 = 0x04 ∧ hostRead bad32 0x1015 = 0x07 := by decide +kernel

/-! ### States for the witnesses -/

/-- An idle machine with a one-Block message. -/
def ready : State := { State.reset with tweak := tw, tlen := 16, mlen := 16, ibuf := [(0, 0x01), (15, 0x80)] }

/-- An idle machine with a message of the greatest length. -/
def readyMax : State := { ready with mlen := 2048 }

/-- A machine with EME.E just issued. -/
def running : State := issue .emeE ready

/-- A machine inside P1, at the last of two slots. -/
def inPass1 : State := { running with phase := .p1, mlen := 32, mcnt := 2, j := 1 }

theorem ready_inv : Inv ready := by constructor <;> decide
theorem readyMax_inv : Inv readyMax := by constructor <;> decide
theorem running_inv : Inv running := by constructor <;> decide
theorem inPass1_inv : Inv inPass1 := by constructor <;> decide
theorem bad32_inv : Inv bad32 := by constructor <;> decide

theorem ident_lawful : ident.Lawful := ⟨fun _ => rfl, fun _ => rfl⟩

/-- A capability that is not the identity and meets the contract: XOR with K1. -/
def xorK1 : Cipher := ⟨fun X => X ^^^ k1, fun X => X ^^^ k1⟩

theorem xorK1_lawful : xorK1.Lawful := by
  have h : ∀ X : Block, X ^^^ k1 ^^^ k1 = X := fun X => by rw [BitVec.xor_assoc]; simp
  exact ⟨h, h⟩

/-! ### Witnesses -/

/-- StepRunsDecodedCommand: a byte that decodes, one that does not, a busy machine. -/
theorem witness_StepRunsDecodedCommand :
    ({ ready with schedule := [.command 0x0A, .seq] } : State).schedule = .command 0x0A :: [.seq] ∧
    decode 0x0A = .ok .emeE ∧
    ({ ready with schedule := [.command 0xFF] } : State).schedule = .command 0xFF :: [] ∧
    (∀ i, decode 0xFF ≠ .ok i) ∧ running.busy = true :=
  ⟨rfl, by decide, rfl, by intro i; cases i <;> decide, rfl⟩

/-- SevenBytesAreCommands: an illegal byte. -/
theorem witness_SevenBytesAreCommands : ∀ i, decode 0x03 ≠ .ok i := by intro i; cases i <;> decide

/-- DblDoublesBlockZero, BxorXorsBlocksZeroAndOne. -/
theorem witness_unit_commands : State.reset.busy = false ∧ bad32.busy = false := by decide

/-- CiphEEnciphersBlockZero, CiphDDeciphersBlockZero: one state for each clause. -/
theorem witness_cipher_commands : ready.busy = false ∧ ready.cbs = 16 ∧ bad32.busy = false ∧ bad32.cbs ≠ 16 := by decide

/-- HostReadsUnitResult, at the first and last address of each case. -/
theorem witness_HostReadsUnitResult : Inv ready ∧ ready.busy = false ∧ ready.cbs = 16 ∧
    ∀ a ∈ ([0x0800, 0x080F, 0x0810, 0x0FFF] : List Addr), 0x0800 ≤ a.toNat ∧ a.toNat ≤ 0x0FFF :=
  ⟨ready_inv, rfl, rfl, by simp⟩

/-- UnitCommandsFrame, with its clause for dropped and failed commands. -/
theorem witness_UnitCommandsFrame :
    (∃ t, exec .bxor ready = .next t) ∧ (∃ t, exec .ciphE running = .next t ∧ running.busy = true) ∧
    ∃ t, exec .ciphD bad32 = .next t ∧ validationError (issue .ciphD bad32) = some .invalidBlockSize :=
  ⟨⟨_, exec_eq_effect _ _⟩, ⟨_, exec_eq_effect _ _, by decide⟩, _, exec_eq_effect _ _, by decide⟩

/-- LgenBuildsTable, EmeEncryptsMessage, EmeDecryptsMessage, CommandRoundTrip: the least and the greatest length. -/
theorem witness_message_commands : ∀ s ∈ [ready, readyMax], Inv s ∧ s.busy = false ∧ s.cbs = 16 ∧ s.tlen = 16 ∧
    16 ≤ s.mlen.toNat ∧ s.mlen.toNat ≤ 2048 ∧ s.mlen.toNat % 16 = 0 := by
  intro s hs
  simp only [List.mem_cons, List.not_mem_nil, or_false] at hs
  rcases hs with rfl | rfl
  · exact ⟨ready_inv, by decide⟩
  · exact ⟨readyMax_inv, by decide⟩

/-- CommandRoundTrip also needs a lawful cipher and a Block. -/
theorem witness_CommandRoundTrip : xorK1.Lawful ∧ 0 < ready.mlen.toNat / 16 ∧ 127 < readyMax.mlen.toNat / 16 :=
  ⟨xorK1_lawful, by decide⟩

/-- LgenFrame: an address outside the stored Blocks; a dropped and a failed command. -/
theorem witness_LgenFrame :
    (∃ t, exec .lgen ready = .next t) ∧ (∀ j < blockCount ready, 16 < blockOffset j ∨ blockOffset j + 16 ≤ 16) ∧
    running.busy = true ∧ validationError (issue .lgen State.reset) = some .invalidMessageLength :=
  ⟨⟨_, exec_eq_effect _ _⟩, by decide⟩

/-- EmeCommandsFrame: the same. -/
theorem witness_EmeCommandsFrame :
    (∃ t, exec .emeE ready = .next t) ∧ (∃ t, exec .emeD ready = .next t) ∧
    (∀ j < blockCount ready, 16 < blockOffset j ∨ blockOffset j + 16 ≤ 16) ∧
    running.busy = true ∧ validationError (issue .emeE State.reset) = some .invalidTweakLength :=
  ⟨⟨_, exec_eq_effect _ _⟩, ⟨_, exec_eq_effect _ _⟩, by decide⟩

theorem witness_FailedCommandChangesOnlyStatus :
    State.reset.busy = false ∧ validationError (issue .emeD State.reset) = some .invalidTweakLength := by decide

/-- EmeErrorPrecedence, row by row. -/
theorem witness_EmeErrorPrecedence :
    let s (cbs : Nat) (tlen : BitVec 8) (mlen : BitVec 16) : State :=
      { State.reset with cbs := cbs, tlen := tlen, mlen := mlen }
    (s 32 15 0).busy = false ∧ (s 32 15 0).cbs ≠ 16 ∧
    (s 16 15 0).cbs = 16 ∧ (s 16 15 0).tlen ≠ 16 ∧
    (s 16 16 0).tlen = 16 ∧ (s 16 16 0).mlen = 0 ∧
    (s 16 16 2049).mlen.toNat % 16 ≠ 0 ∧
    (s 16 16 2064).mlen.toNat % 16 = 0 ∧ 2048 < (s 16 16 2064).mlen.toNat ∧
    (s 16 16 65520).mlen.toNat % 16 = 0 ∧ 2048 < (s 16 16 65520).mlen.toNat ∧
    (s 16 16 16).mlen.toNat % 16 = 0 ∧ 16 ≤ (s 16 16 16).mlen.toNat ∧
    (s 16 16 2048).mlen.toNat % 16 = 0 ∧ (s 16 16 2048).mlen.toNat ≤ 2048 := by decide

/-- LgenErrorPrecedence, row by row. -/
theorem witness_LgenErrorPrecedence :
    let s (cbs : Nat) (mlen : BitVec 16) : State := { State.reset with cbs := cbs, mlen := mlen }
    (s 32 0).busy = false ∧ (s 32 0).cbs ≠ 16 ∧
    (s 16 0).cbs = 16 ∧ (s 16 0).mlen = 0 ∧ (s 16 15).mlen.toNat % 16 ≠ 0 ∧
    (s 16 2064).mlen.toNat % 16 = 0 ∧ 2048 < (s 16 2064).mlen.toNat := by decide

/-- TransformErrorsAreValidationErrors: a command it names, and an error that occurs. -/
theorem witness_TransformErrorsAreValidationErrors :
    (Instr.emeE = .emeE ∨ Instr.emeE = .emeD) ∧ validationError (issue .emeE State.reset) = some .invalidTweakLength := by
  decide

theorem witness_DoubleBytewise : 1 ≤ 1 ∧ 1 ≤ 15 ∧ 15 ≤ 15 := by decide
/-- DoubleLaws: a Block on either side of the reduction. -/
theorem witness_DoubleLaws : (byteOf (0x7F <<< 120) 15).toNat < 0x80 ∧ 0x80 ≤ (byteOf (0x80 <<< 120) 15).toNat := by decide
theorem witness_DoubleMultipliesByX : 0 < 128 ∧ 127 < 128 := by decide

/-- SoftwareFormsAgreeOrFail: an input of the wrong length, operands of different lengths and of equal ones. -/
theorem witness_SoftwareFormsAgreeOrFail :
    (List.replicate 15 (0 : Byte)).length ≠ 16 ∧ (List.replicate 17 (0 : Byte)).length ≠ 16 ∧
    (List.replicate 16 (0 : Byte)).length ≠ (List.replicate 15 (0 : Byte)).length ∧
    (List.replicate 3 (1 : Byte)).length = (List.replicate 3 (2 : Byte)).length ∧
    2 < (List.replicate 3 (1 : Byte)).length := by decide

theorem witness_AdapterDirectionsInvert : xorK1.Lawful := xorK1_lawful
theorem witness_MultipliersClosedForm : 0 < 1 ∧ 127 < 128 ∧ 126 + 1 < 128 ∧ 1 ≤ 128 ∧ ident.E 0 = 0 := by decide

/-- TransformEquations: one Block, and more than one. -/
theorem witness_TransformEquations : 1 ≤ [p0].length ∧ 1 ≤ [p0, p1].length ∧ 1 ≤ 1 ∧ 1 < [p0, p1].length := by decide

theorem witness_TransformRoundTrip : xorK1.Lawful ∧ (1 ≤ 1 ∧ 1 ≤ 128 ∧ (bytesOfBlock p0).length = 16 * 1) ∧
    (1 ≤ 128 ∧ 128 ≤ 128 ∧ (List.replicate 2048 (0x5A : Byte)).length = 16 * 128) :=
  ⟨xorK1_lawful, by decide, by decide, by decide, List.length_replicate⟩

/-- TransformPermutes: the least length, as in TransformRoundTrip. -/
theorem witness_TransformPermutes : xorK1.Lawful ∧ 1 ≤ 1 ∧ 1 ≤ 128 ∧ (bytesOfBlock p0).length = 16 * 1 :=
  ⟨xorK1_lawful, by decide, by decide, by decide⟩
theorem witness_IdentityCipherTransform : (∀ X, ident.E X = X) ∧ ∀ X, ident.D X = X := ⟨fun _ => rfl, fun _ => rfl⟩

/-- UnitPhaseRules, TransformSinglePhaseRules: a state in each phase. -/
theorem witness_single_phases : ∀ p ∈ [Phase.uDbl, .uXor, .uCiph, .lSeed, .mpInit, .mcEnc, .mMask, .cccInit, .cccSt],
    ({ running with phase := p } : State).phase = p := by decide

/-- TablePhaseRules, TransformLoopPhaseRules: the first and the last slot of the longest message, in each loop phase. -/
theorem witness_loop_phases : ∀ p ∈ [Phase.lGen, .p1, .mpAcc, .p2, .cccAcc, .p3], ∀ j ∈ ([0, 127] : List (BitVec 8)),
    let s : State := { running with phase := p, mlen := 2048, mcnt := 128, j := j }
    s.phase = p ∧ s.func = 5 ∧ s.j.toNat < s.mcnt.toNat ∧ s.mcnt.toNat ≤ 128 ∧
      (s.j.toNat + 1 = s.mcnt.toNat ∨ s.j.toNat + 1 ≠ s.mcnt.toNat) := by decide

/-- ValidateAndFinishPhaseRules: a state for each clause. -/
theorem witness_ValidateAndFinishPhaseRules :
    (∀ i ∈ [Instr.dbl, .bxor, .ciphE, .lgen, .emeE], (issue i ready).phase = .validate ∧ (issue i ready).cbs = 16 ∧
      (issue i ready).tlen = 16 ∧ (issue i ready).mlen.toNat % 16 = 0 ∧ 16 ≤ (issue i ready).mlen.toNat ∧
      (issue i ready).mlen.toNat ≤ 2048) ∧
    [Instr.dbl, .bxor, .ciphE, .lgen, .emeE].map (fun i => (issue i ready).func) = [1, 2, 3, 4, 5] ∧
    (issue .lgen State.reset).func ∈ ([1, 2, 3, 4, 5] : List (BitVec 3)) ∧
    validationError (issue .lgen State.reset) = some .invalidMessageLength ∧
    ({ inPass1 with phase := .finish, j := 0 } : State).phase = .finish := by decide

/-- SuccessorRelation, SequencerKeepsInputs: a state of the invariant whose sequencer steps. -/
theorem witness_SuccessorRelation : Inv inPass1 ∧ ∃ t, seqStep toy1 inPass1 = .next t := ⟨inPass1_inv, _, rfl⟩

/-- SequencerRefinesCommand, TransactionRunEqualsExec, OperationCounts: every command passing VALIDATE, and one failing. -/
theorem witness_SequencerRefinesCommand : (∀ i ∈ [Instr.dbl, .bxor, .ciphE, .ciphD, .lgen, .emeE, .emeD],
    ready.busy = false ∧ validationError (issue i ready) = none ∧ 0 < stepCount i ready) ∧
    State.reset.busy = false ∧ validationError (issue .emeD State.reset) = some .invalidTweakLength := by decide

theorem witness_BusyCommandCompletes : Inv inPass1 ∧ inPass1.busy = true := ⟨inPass1_inv, by decide⟩
theorem witness_WrongBlockSizeNeverCallsCipher : bad32.cbs ≠ 16 ∧ Inv bad32 := ⟨by decide, bad32_inv⟩

/-- HostReadMap, at the ends of every range. -/
theorem witness_HostReadMap :
    (∀ a : Addr, ({ ready with schedule := [.read a] } : State).schedule = .read a :: []) ∧
    (0x0000 : Addr).toNat ≤ 0x07FF ∧ (0x07FF : Addr).toNat ≤ 0x07FF ∧
    (∀ a ∈ ([0x0800, 0x0FFF] : List Addr), 0x0800 ≤ a.toNat ∧ a.toNat ≤ 0x0FFF) ∧
    (∀ a ∈ ([0x1000, 0x100F] : List Addr), 0x1000 ≤ a.toNat ∧ a.toNat ≤ 0x100F) ∧
    ∀ a ∈ ([0x1018, 0x1FFF] : List Addr), 0x1018 ≤ a.toNat := ⟨fun _ => rfl, by simp⟩

/-- HostWriteMap, busy, and at the ends of every range. -/
theorem witness_HostWriteMap :
    (∀ a : Addr, ({ ready with schedule := [.write a 0xFF] } : State).schedule = .write a 0xFF :: []) ∧
    ({ running with schedule := [.write 0x1011 0x0B] } : State).schedule = .write 0x1011 0x0B :: [] ∧
    running.busy = true ∧ ready.busy = false ∧ (0x0000 : Addr).toNat ≤ 0x07FF ∧ (0x07FF : Addr).toNat ≤ 0x07FF ∧
    (∀ a ∈ ([0x0800, 0x0FFF] : List Addr), 0x0800 ≤ a.toNat ∧ a.toNat ≤ 0x0FFF) ∧
    (∀ a ∈ ([0x1000, 0x100F] : List Addr), 0x1000 ≤ a.toNat ∧ a.toNat ≤ 0x100F) ∧
    ∀ a ∈ ([0x1014, 0x1FFF] : List Addr), 0x1014 ≤ a.toNat := ⟨fun _ => rfl, rfl, rfl, rfl, by simp⟩

/-- IssueCommand: a legal byte and an illegal one. -/
theorem witness_IssueCommand : ready.busy = false ∧
    ({ ready with schedule := [.write 0x1011 0x08] } : State).schedule = .write 0x1011 0x08 :: [] ∧
    0x08 ∈ ([0x02, 0x04, 0x06, 0x07, 0x08, 0x0A, 0x0B] : List Byte) ∧
    ({ ready with schedule := [.write 0x1011 0x09] } : State).schedule = .write 0x1011 0x09 :: [] ∧
    0x09 ∉ ([0x02, 0x04, 0x06, 0x07, 0x08, 0x0A, 0x0B] : List Byte) := by decide

theorem witness_HostReadsBackWrites : Inv ready ∧ ready.busy = false ∧
    ∀ a ∈ ([0x0000, 0x07FF, 0x1000, 0x1010, 0x1012, 0x1013] : List Addr),
      a.toNat ≤ 0x07FF ∨ (0x1000 ≤ a.toNat ∧ a.toNat ≤ 0x1010) ∨ a = 0x1012 ∨ a = 0x1013 :=
  ⟨ready_inv, rfl, by simp⟩

/-- OutputGate: an address in range; a busy machine; a machine with 16 readable bytes, at the last readable and the first
hidden one; a command that fails. -/
theorem witness_OutputGate :
    (0x0800 ≤ (0x080F : Addr).toNat ∧ (0x0810 : Addr).toNat ≤ 0x0FFF) ∧ running.busy = true ∧
    (let s : State := { ready with rlen := 16 };
      s.busy = false ∧ (0x080F : Addr).toNat - 0x0800 < s.rlen.toNat ∧ s.rlen.toNat ≤ (0x0810 : Addr).toNat - 0x0800) ∧
    ∃ t, State.reset.busy = false ∧ exec .lgen State.reset = .next t ∧ t.err ≠ .none :=
  ⟨by decide, by decide, by decide, _, rfl, exec_eq_effect _ _, by decide +kernel⟩

/-- SetMessageLoadsBuffer: the empty message and one of the greatest length. -/
theorem witness_SetMessageLoadsBuffer : Inv ready ∧ ready.busy = false ∧ ([] : List Byte).length ≤ 2048 ∧
    (List.replicate 2048 (0x5A : Byte)).length ≤ 2048 ∧
    ∀ h, ({ ready with schedule := setMsg h } : State).schedule = setMsg h :=
  ⟨ready_inv, rfl, by decide, Nat.le_of_eq List.length_replicate, fun _ => rfl⟩

theorem witness_HostCallReturnsTransform : Inv ready ∧ ready.busy = false ∧ ready.cbs = 16 ∧
    (bytesOfBlock tw).length = 16 ∧ (bytesOfBlock p0).length = 16 * 1 ∧
    (List.replicate 2048 (0x5A : Byte)).length = 16 * 128 ∧
    ({ ready with schedule := callEvents (bytesOfBlock tw) (bytesOfBlock p0) .emeD } : State).schedule =
      callEvents (bytesOfBlock tw) (bytesOfBlock p0) .emeD :=
  ⟨ready_inv, rfl, rfl, length_bytesOfBlock _, length_bytesOfBlock _, List.length_replicate, rfl⟩

/-- LockMakesInterleavingIrrelevant: host reads, writes and command bytes around VALIDATE, which leaves EME.E busy. -/
theorem witness_LockMakesInterleavingIrrelevant :
    let evs : List Event := [.write 0x0000 0xEE, .seq, .write 0x1011 0x0B, .read 0x1014, .command 0x02]
    let s : State := { running with schedule := evs ++ [.seq] }
    (∀ d, .reset d ∉ evs) ∧ s.schedule = evs ++ [.seq] ∧
    (∀ n ≤ evs.count .seq, ∃ u, seqRun Config.cipher n s = .next u ∧ u.busy = true) ∧
    ∃ t, seqRun Config.cipher (evs.count .seq + 1) s = .next t := by
  refine ⟨by simp, rfl, ?_, _, rfl⟩
  intro n hn
  have h1 : n ≤ 1 := hn
  interval_cases n
  · exact ⟨_, rfl, rfl⟩
  · exact ⟨_, rfl, rfl⟩

/-- ResultsDependOnInputsOnly: two machines that differ in what the host cannot set. -/
theorem witness_ResultsDependOnInputsOnly :
    let s' : State := { ready with obuf := [(5, 0xA5)], ls := p0, mp := p1, done := true, rlen := 16, func := 3, dir := 1 }
    Inv ready ∧ Inv s' ∧ s' ≠ ready ∧ ready.busy = false ∧ s'.busy = false ∧ ready.cbs = s'.cbs ∧
    ready.tweak = s'.tweak ∧ ready.tlen = s'.tlen ∧ ready.mlen = s'.mlen ∧ ready.ibuf = s'.ibuf :=
  ⟨ready_inv, by constructor <;> decide, by decide⟩

theorem witness_ResetSetsEveryRegister :
    ({ running with schedule := [.reset Draw.zero] } : State).schedule = .reset Draw.zero :: [] := by decide

/-- CfailIsSticky, StepKeepsInvariant, InvariantRunsAreSafe: a state of the invariant that steps, in a host write. -/
theorem witness_StepKeepsInvariant :
    let s : State := { ready with schedule := [.write 0x07FF 0xFF] }
    Inv s ∧ (∃ t, step s = .next t) ∧ ∀ d rest, s.schedule ≠ .reset d :: rest :=
  ⟨by constructor <;> decide, ⟨_, rfl⟩, by simp⟩

end Sys2Proof.Tests
end

/-! R43, statelessness, as a two-run argument: what the two runs are known to agree on is followed from phase to phase.
At issue it is the host's inputs only; every register and every Block of OBUF and LT is written before it is read. -/

namespace Sys2Proof.Proofs.Statelessness

open Sys2Proof.Machine

/-! ### Buffers that agree on their first Blocks -/

/-- Two canonical buffers hold the same first `n` Blocks. -/
structure AgreeBelow (n : Nat) (mem mem' : Memory) : Prop where
  wf : Memory.wf mem = true
  wf' : Memory.wf mem' = true
  block : ∀ k < n, Memory.block mem k = Memory.block mem' k

theorem agreeBelow_zero {mem mem' : Memory} (h : Memory.wf mem = true) (h' : Memory.wf mem' = true) :
    AgreeBelow 0 mem mem' := ⟨h, h', fun _ hk => absurd hk (Nat.not_lt_zero _)⟩

/-- Storing one Block to both buffers keeps what they agree on and adds that Block to it. -/
theorem AgreeBelow.setBlock {n n' j : Nat} {mem mem' : Memory} (h : AgreeBelow n mem mem') (hj : j < Config.maxBlk)
    (hn : ∀ k < n', k < n ∨ k = j) (X : Block) :
    AgreeBelow n' (Memory.setBlock mem j X) (Memory.setBlock mem' j X) where
  wf := Memory.wf_setBlock h.wf X hj
  wf' := Memory.wf_setBlock h.wf' X hj
  block k hk := by
    by_cases hkj : k = j
    · rw [hkj, Memory.block_setBlock_self h.wf X hj, Memory.block_setBlock_self h.wf' X hj]
    · rw [Memory.block_setBlock_other _ X hkj, Memory.block_setBlock_other _ X hkj]
      exact h.block k ((hn k hk).resolve_right hkj)

theorem AgreeBelow.read {n a : Nat} {mem mem' : Memory} (h : AgreeBelow n mem mem') (ha : a < 16 * n) :
    Memory.read mem a = Memory.read mem' a := by
  have hblock : a / 16 < n := by omega
  have hbyte : a % 16 < 16 := by omega
  have haddr : blockOffset (a / 16) + a % 16 = a := Nat.div_add_mod a 16
  rw [← haddr, ← Memory.byteOf_block _ _ _ hbyte, ← Memory.byteOf_block _ _ _ hbyte, h.block _ hblock]

/-! ### What two runs agree on -/

/-- What a command's phases read and never write, and ERR, which they do not write either. -/
def inputs (s : State) : Memory × Block × BitVec 3 × BitVec 1 × Err := (s.ibuf, s.tweak, s.func, s.dir, s.err)

/-- Two runs agree on the inputs, on the first `o` Blocks of OBUF, on the first `l` Blocks of LT and on the internal
registers `rs`; nothing is known of the rest. -/
structure Agree (o l : Nat) (rs : List (State → Block)) (s s' : State) : Prop where
  inputs : inputs s = inputs s'
  obuf : AgreeBelow o s.obuf s'.obuf
  lt : AgreeBelow l s.lt s'.lt
  regs : ∀ r ∈ rs, r s = r s'

section
variable {o l : Nat} {rs : List (State → Block)} {s s' : State}

theorem Agree.ibuf (h : Agree o l rs s s') : s.ibuf = s'.ibuf := congrArg (·.1) h.inputs
theorem Agree.tweak (h : Agree o l rs s s') : s.tweak = s'.tweak := congrArg (·.2.1) h.inputs
theorem Agree.func (h : Agree o l rs s s') : s.func = s'.func := congrArg (·.2.2.1) h.inputs
theorem Agree.dir (h : Agree o l rs s s') : s.dir = s'.dir := congrArg (·.2.2.2.1) h.inputs
theorem Agree.err (h : Agree o l rs s s') : s.err = s'.err := congrArg (·.2.2.2.2) h.inputs

theorem Agree.ib (h : Agree o l rs s s') (j : Nat) : ib s j = ib s' j := by simp only [Machine.ib, h.ibuf]
theorem Agree.ob (h : Agree o l rs s s') {j : Nat} (hj : j < o) : ob s j = ob s' j := h.obuf.block j hj
theorem Agree.ltBlock (h : Agree o l rs s s') {j : Nat} (hj : j < l) : ltBlock s j = ltBlock s' j := h.lt.block j hj
end

@[simp] theorem inputs_uDbl (s : State) : inputs (uDbl s) = inputs s := by simp [inputs]
@[simp] theorem inputs_uXor (s : State) : inputs (uXor s) = inputs s := by simp [inputs]
@[simp] theorem inputs_uCiph (c : Cipher) (s : State) : inputs (uCiph c s) = inputs s := by simp [inputs]
@[simp] theorem inputs_lSeed (c : Cipher) (s : State) : inputs (lSeed c s) = inputs s := rfl
@[simp] theorem inputs_mpInit (s : State) : inputs (mpInit s) = inputs s := rfl
@[simp] theorem inputs_mcEnc (c : Cipher) (s : State) : inputs (mcEnc c s) = inputs s := rfl
@[simp] theorem inputs_mMask (s : State) : inputs (mMask s) = inputs s := rfl
@[simp] theorem inputs_cccInit (s : State) : inputs (cccInit s) = inputs s := rfl
@[simp] theorem inputs_cccSt (s : State) : inputs (cccSt s) = inputs s := by simp [inputs]
@[simp] theorem inputs_lGen (s : State) : inputs (lGen s) = inputs s := by simp [inputs]
@[simp] theorem inputs_p1 (c : Cipher) (s : State) : inputs (p1 c s) = inputs s := by simp [inputs]
@[simp] theorem inputs_mpAcc (s : State) : inputs (mpAcc s) = inputs s := by simp [inputs]
@[simp] theorem inputs_p2 (s : State) : inputs (p2 s) = inputs s := by simp [inputs]
@[simp] theorem inputs_cccAcc (s : State) : inputs (cccAcc s) = inputs s := by simp [inputs]
@[simp] theorem inputs_p3 (c : Cipher) (s : State) : inputs (p3 c s) = inputs s := by simp [inputs]

/-! ### The phases, one lemma each: what they need the runs to agree on and what they leave agreed

A loop phase is taken at Block `j`, the same in both runs. -/

section
variable {o l m j : Nat} {rs : List (State → Block)} {s s' : State}

theorem Agree.lSeed (c : Cipher) (h : Agree o l rs s s') : Agree o l [State.ls] (lSeed c s) (lSeed c s') where
  inputs := by simpa using h.inputs
  obuf := h.obuf
  lt := h.lt
  regs := by simp

/-- Blocks of OBUF that `n` executions of L_GEN have written: LGEN stores the table there (R156). -/
def tableOut (func : BitVec 3) (n : Nat) : Nat := if func = 4 then n else 0

@[simp] theorem tableOut_zero (func : BitVec 3) : tableOut func 0 = 0 := ite_self 0
theorem tableOut_lgen (n : Nat) : tableOut 4 n = n := rfl
theorem tableOut_eme (n : Nat) : tableOut 5 n = 0 := rfl

theorem Agree.lGen (hm : m ≤ 128) (hjm : j < m) (hj : s.j.toNat = j) (hj' : s'.j.toNat = j)
    (h : Agree (tableOut s.func j) j [State.ls] s s') :
    Agree (tableOut (lGen s).func (j + 1)) (j + 1) [State.ls] (lGen s) (lGen s') := by
  have hls : s.ls = s'.ls := h.regs _ (by simp)
  have hblk : j < Config.maxBlk := by simp only [Config.maxBlk]; omega
  refine ⟨by simpa using h.inputs, ?_, ?_, by simp [hls]⟩
  · have hobuf := h.obuf
    simp only [lGen_obuf, lGen_func, hj, hj', ← hls, ← h.func]
    by_cases hf : s.func = 4
    · simp only [tableOut, hf, if_true] at hobuf ⊢
      exact hobuf.setBlock hblk (by omega) _
    · simpa only [tableOut, hf, if_false] using hobuf
  · simp only [lGen_lt, hj, hj', ← hls]
    exact h.lt.setBlock hblk (by omega) _

theorem Agree.p1 (c : Cipher) (hm : m ≤ 128) (hjm : j < m) (hj : s.j.toNat = j) (hj' : s'.j.toNat = j)
    (h : Agree j m [State.ls] s s') : Agree (j + 1) m [State.ls] (p1 c s) (p1 c s') where
  inputs := by simpa using h.inputs
  obuf := by
    simp only [p1_obuf, hj, hj', ← h.dir, ← h.ib, ← h.ltBlock hjm]
    exact h.obuf.setBlock (by simp only [Config.maxBlk]; omega) (by omega) _
  lt := by simpa using h.lt
  regs := by simpa using h.regs

theorem Agree.mpInit (ho : 0 < o) (h : Agree o l rs s s') : Agree o l [State.mp] (mpInit s) (mpInit s') where
  inputs := by simpa using h.inputs
  obuf := h.obuf
  lt := h.lt
  regs := by simp [h.ob ho, h.tweak]

theorem Agree.mpAcc (hjo : j < o) (hj : s.j.toNat = j) (hj' : s'.j.toNat = j) (h : Agree o l [State.mp] s s') :
    Agree o l [State.mp] (mpAcc s) (mpAcc s') where
  inputs := by simpa using h.inputs
  obuf := by simpa using h.obuf
  lt := by simpa using h.lt
  regs := by
    have hmp : s.mp = s'.mp := h.regs _ (by simp)
    simp [hmp, hj, hj', h.ob hjo]

theorem Agree.mcEnc (c : Cipher) (h : Agree o l [State.mp] s s') :
    Agree o l [State.mp, State.mc] (mcEnc c s) (mcEnc c s') where
  inputs := by simpa using h.inputs
  obuf := h.obuf
  lt := h.lt
  regs := by
    have hmp : s.mp = s'.mp := h.regs _ (by simp)
    simp [hmp, h.dir]

theorem Agree.mMask (h : Agree o l [State.mp, State.mc] s s') :
    Agree o l [State.m, State.mc] (mMask s) (mMask s') where
  inputs := by simpa using h.inputs
  obuf := h.obuf
  lt := h.lt
  regs := by
    have hmp : s.mp = s'.mp := h.regs _ (by simp)
    have hmc : s.mc = s'.mc := h.regs _ (by simp)
    simp [hmp, hmc]

theorem Agree.p2 (ho : o ≤ 128) (hjo : j < o) (hj : s.j.toNat = j) (hj' : s'.j.toNat = j)
    (h : Agree o l [State.m, State.mc] s s') : Agree o l [State.m, State.mc] (p2 s) (p2 s') := by
  have hm : s.m = s'.m := h.regs _ (by simp)
  have hmc : s.mc = s'.mc := h.regs _ (by simp)
  refine ⟨by simpa using h.inputs, ?_, by simpa using h.lt, by simp [hm, hmc]⟩
  simp only [p2_obuf, hj, hj', ← hm, ← h.ob hjo]
  exact h.obuf.setBlock (by simp only [Config.maxBlk]; omega) (fun _ hk => .inl hk) _

theorem Agree.cccInit (h : Agree o l [State.m, State.mc] s s') : Agree o l [State.ccc] (cccInit s) (cccInit s') where
  inputs := by simpa using h.inputs
  obuf := h.obuf
  lt := h.lt
  regs := by
    have hmc : s.mc = s'.mc := h.regs _ (by simp)
    simp [hmc, h.tweak]

theorem Agree.cccAcc (hjo : j < o) (hj : s.j.toNat = j) (hj' : s'.j.toNat = j) (h : Agree o l [State.ccc] s s') :
    Agree o l [State.ccc] (cccAcc s) (cccAcc s') where
  inputs := by simpa using h.inputs
  obuf := by simpa using h.obuf
  lt := by simpa using h.lt
  regs := by
    have hccc : s.ccc = s'.ccc := h.regs _ (by simp)
    simp [hccc, hj, hj', h.ob hjo]

theorem Agree.cccSt (h : Agree o l [State.ccc] s s') : Agree o l [] (cccSt s) (cccSt s') where
  inputs := by simpa using h.inputs
  obuf := by
    have hccc : s.ccc = s'.ccc := h.regs _ (by simp)
    simp only [cccSt_obuf, ← hccc]
    exact h.obuf.setBlock (by decide) (fun _ hk => .inl hk) _
  lt := by simpa using h.lt
  regs := by simp

theorem Agree.p3 (c : Cipher) (hm : m ≤ 128) (hjm : j < m) (hj : s.j.toNat = j) (hj' : s'.j.toNat = j)
    (h : Agree m m [] s s') : Agree m m [] (p3 c s) (p3 c s') where
  inputs := by simpa using h.inputs
  obuf := by
    simp only [p3_obuf, hj, hj', ← h.dir, ← h.ob hjm, ← h.ltBlock hjm]
    exact h.obuf.setBlock (by simp only [Config.maxBlk]; omega) (fun _ hk => .inl hk) _
  lt := by simpa using h.lt
  regs := by simp
end

/-! ### Loops, in both runs at once -/

/-- A loop rule keeps MCNT and moves J on, back to 0 after Block MCNT - 1 (`advance`). -/
structure LoopRule (f : State → State) : Prop where
  mcnt : ∀ s, (f s).mcnt = s.mcnt
  j : ∀ s, (f s).j = if s.j.toNat + 1 = s.mcnt.toNat then 0 else s.j + 1

theorem loopRule_lGen : LoopRule lGen := ⟨lGen_mcnt, lGen_j⟩
theorem loopRule_p1 (c : Cipher) : LoopRule (p1 c) := ⟨p1_mcnt c, p1_j c⟩
theorem loopRule_mpAcc : LoopRule mpAcc := ⟨mpAcc_mcnt, mpAcc_j⟩
theorem loopRule_p2 : LoopRule p2 := ⟨p2_mcnt, p2_j⟩
theorem loopRule_cccAcc : LoopRule cccAcc := ⟨cccAcc_mcnt, cccAcc_j⟩
theorem loopRule_p3 (c : Cipher) : LoopRule (p3 c) := ⟨p3_mcnt c, p3_j c⟩

/-- The command has `m` Blocks and, when one is left, its next one is Block `k`. -/
structure AtBlock (m k : Nat) (s : State) : Prop where
  mcnt : s.mcnt.toNat = m
  j : k < m → s.j.toNat = k

theorem AtBlock.next {f : State → State} (hf : LoopRule f) {m k : Nat} (hm : m ≤ 128) (hk : k < m) {s : State}
    (h : AtBlock m k s) : AtBlock m (k + 1) (f s) where
  mcnt := by rw [hf.mcnt, h.mcnt]
  j hk' := by
    have hlast : ¬ (s.j.toNat + 1 = s.mcnt.toNat) := by rw [h.j hk, h.mcnt]; omega
    rw [hf.j, if_neg hlast, toNat_succ_of_lt (by rw [h.j hk]; exact hk') hm, h.j hk]

/-- A loop over all Blocks leaves J at 0, where the next loop over all Blocks begins. -/
theorem AtBlock.iterate_all {f : State → State} (hf : LoopRule f) {m : Nat} (hm : m ≤ 128) (hpos : 0 < m) {s : State}
    (h : AtBlock m 0 s) : AtBlock m 0 (f^[m] s) where
  mcnt := by rw [iterate_keeps (·.mcnt) hf.mcnt, h.mcnt]
  j _ := by
    obtain ⟨n, rfl⟩ : ∃ n, m = n + 1 := ⟨m - 1, by omega⟩
    have hj : (f^[n] s).j.toNat = n := by
      rw [iterate_j hf.j hf.mcnt n s (by rw [h.j hpos, h.mcnt]; omega) (by rw [h.mcnt]; exact hm), h.j hpos, zero_add]
    have hmcnt : (f^[n] s).mcnt.toNat = n + 1 := by rw [iterate_keeps (·.mcnt) hf.mcnt, h.mcnt]
    rw [Function.iterate_succ_apply', hf.j, hj, hmcnt, if_pos rfl]
    rfl

/-- Two runs at the same Block of `m`, between which `A` holds. -/
structure Lockstep (m k : Nat) (A : State → State → Prop) (s s' : State) : Prop where
  left : AtBlock m k s
  right : AtBlock m k s'
  agree : A s s'

/-- A phase executed once, which keeps MCNT and sets J to `k'`, in both runs. -/
theorem Lockstep.single {g : State → State} (hmcnt : ∀ s, (g s).mcnt = s.mcnt) {k' : Nat}
    (hj : ∀ s, (g s).j.toNat = k') {m k : Nat} {A A' : State → State → Prop} {s s' : State} (h : Lockstep m k A s s')
    (hA : A' (g s) (g s')) : Lockstep m k' A' (g s) (g s') :=
  ⟨⟨by rw [hmcnt, h.left.mcnt], fun _ => hj s⟩, ⟨by rw [hmcnt, h.right.mcnt], fun _ => hj s'⟩, hA⟩

/-- A loop from Block `k` to the last, in both runs: what every execution carries on holds at the end. -/
theorem Lockstep.iterate {f : State → State} (hf : LoopRule f) {m : Nat} (hm : m ≤ 128)
    {A : Nat → State → State → Prop}
    (hA : ∀ k s s', k < m → s.j.toNat = k → s'.j.toNat = k → A k s s' → A (k + 1) (f s) (f s')) {n k : Nat}
    (hkn : k + n = m) {s s' : State} (h : Lockstep m k (A k) s s') : Lockstep m m (A m) (f^[n] s) (f^[n] s') := by
  induction n generalizing k s s' with
  | zero => obtain rfl : k = m := hkn; exact h
  | succ n ih =>
    have hk : k < m := by omega
    exact ih (k := k + 1) (by omega)
      ⟨h.left.next hf hm hk, h.right.next hf hm hk, hA k s s' hk (h.left.j hk) (h.right.j hk) h.agree⟩

/-- A loop over all Blocks, in both runs. -/
theorem Lockstep.iterate_all {f : State → State} (hf : LoopRule f) {m : Nat} (hm : m ≤ 128) (hpos : 0 < m)
    {A : Nat → State → State → Prop}
    (hA : ∀ k s s', k < m → s.j.toNat = k → s'.j.toNat = k → A k s s' → A (k + 1) (f s) (f s')) {s s' : State}
    (h : Lockstep m 0 (A 0) s s') : Lockstep m 0 (A m) (f^[m] s) (f^[m] s') :=
  ⟨h.left.iterate_all hf hm hpos, h.right.iterate_all hf hm hpos,
    (h.iterate hf hm hA (Nat.zero_add m)).agree⟩

/-! ### The commands' phases between VALIDATE and FINISH -/

/-- A unit rule stores one Block, `X` of the state, to Block 0 of OBUF and sets MCNT to 1. -/
structure UnitRule (X : State → Block) (f : State → State) : Prop where
  inputs : ∀ s, inputs (f s) = inputs s
  obuf : ∀ s, (f s).obuf = Memory.setBlock s.obuf 0 (X s)
  lt : ∀ s, (f s).lt = s.lt
  mcnt : ∀ s, (f s).mcnt = 1

theorem unitRule_uDbl : UnitRule (fun s => double (ib s 0)) uDbl :=
  ⟨inputs_uDbl, uDbl_obuf, uDbl_lt, uDbl_mcnt⟩
theorem unitRule_uXor : UnitRule (fun s => blockXor (ib s 0) (ib s 1)) uXor :=
  ⟨inputs_uXor, uXor_obuf, uXor_lt, uXor_mcnt⟩
theorem unitRule_uCiph (c : Cipher) : UnitRule (fun s => bc c s.dir (ib s 0)) (uCiph c) :=
  ⟨inputs_uCiph c, uCiph_obuf c, uCiph_lt c, uCiph_mcnt c⟩

/-- A unit phase needs no MCNT, leaves it at 1, and its one Block of OBUF is agreed when it comes from the inputs. -/
theorem lockstep_unit {X : State → Block} {f : State → State} (hf : UnitRule X f) {s s' : State}
    (h : Agree 0 0 [] s s') (hX : X s = X s') : Lockstep 1 1 (Agree 1 0 []) (f s) (f s') where
  left := ⟨by rw [hf.mcnt]; rfl, fun hk => absurd hk (lt_irrefl 1)⟩
  right := ⟨by rw [hf.mcnt]; rfl, fun hk => absurd hk (lt_irrefl 1)⟩
  agree :=
    { inputs := by rw [hf.inputs, hf.inputs, h.inputs]
      obuf := by
        rw [hf.obuf, hf.obuf, ← hX]
        exact h.obuf.setBlock (by decide) (by omega) (X s)
      lt := by rw [hf.lt, hf.lt]; exact h.lt
      regs := by simp }

section
variable {m : Nat} {s s' : State}

/-- L_SEED and L_GEN need nothing of the old LS, LT or OBUF. -/
theorem lockstep_tableBody (c : Cipher) (hm : m ≤ 128) (hpos : 0 < m) (hs : s.mcnt.toNat = m)
    (hs' : s'.mcnt.toNat = m) (h : Agree 0 0 [] s s') :
    Lockstep m 0 (Agree (tableOut s.func m) m [State.ls]) (tableBody c s) (tableBody c s') := by
  have hseed : Lockstep m 0 (fun t t' => Agree (tableOut t.func 0) 0 [State.ls] t t') (lSeed c s) (lSeed c s') :=
    ⟨⟨hs, fun _ => rfl⟩, ⟨hs', fun _ => rfl⟩, by simpa using h.lSeed c⟩
  have htable := hseed.iterate_all loopRule_lGen hm hpos
    (A := fun k t t' => Agree (tableOut t.func k) k [State.ls] t t') fun _ _ _ hk hj hj' hA => hA.lGen hm hk hj hj'
  have hfunc : (tableBody c s).func = s.func := iterate_keeps (·.func) lGen_func _ _
  rw [tableBody, hs] at hfunc
  simp only [tableBody, hs, hs']
  exact ⟨htable.left, htable.right, hfunc ▸ htable.agree⟩

/-- LGEN leaves its whole result, the table, agreed in OBUF. -/
theorem lockstep_tableBody_lgen (c : Cipher) (hm : m ≤ 128) (hpos : 0 < m) (hs : s.mcnt.toNat = m)
    (hs' : s'.mcnt.toNat = m) (hf : s.func = 4) (h : Agree 0 0 [] s s') :
    Lockstep m 0 (Agree m m [State.ls]) (tableBody c s) (tableBody c s') := by
  simpa only [hf, tableOut_lgen] using lockstep_tableBody c hm hpos hs hs' h

/-- The transform, loop by loop: each register and each Block is agreed from the phase that first writes it. -/
theorem lockstep_emeBody (c : Cipher) (hm : m ≤ 128) (hpos : 0 < m) (hs : s.mcnt.toNat = m)
    (hs' : s'.mcnt.toNat = m) (hf : s.func = 5) (h : Agree 0 0 [] s s') :
    Lockstep m 0 (Agree m m []) (emeBody c s) (emeBody c s') := by
  have htail : 1 + (m - 1) = m := by omega
  have htable := lockstep_tableBody c hm hpos hs hs' h
  rw [hf, tableOut_eme] at htable
  have hpass1 := htable.iterate_all (loopRule_p1 c) hm hpos (A := fun k => Agree k m [State.ls])
    fun _ _ _ hk hj hj' hA => hA.p1 c hm hk hj hj'
  have hmp := Lockstep.iterate loopRule_mpAcc hm (A := fun _ => Agree m m [State.mp])
    (fun _ _ _ hk hj hj' hA => hA.mpAcc hk hj hj') htail
    (hpass1.single mpInit_mcnt (fun _ => rfl) (hpass1.agree.mpInit hpos))
  have hpass2 := Lockstep.iterate loopRule_p2 hm (A := fun _ => Agree m m [State.m, State.mc])
    (fun _ _ _ hk hj hj' hA => hA.p2 hm hk hj hj') htail
    (hmp.single (g := fun t => mMask (mcEnc c t)) (fun _ => rfl) (fun _ => rfl) (hmp.agree.mcEnc c).mMask)
  have hccc := Lockstep.iterate loopRule_cccAcc hm (A := fun _ => Agree m m [State.ccc])
    (fun _ _ _ hk hj hj' hA => hA.cccAcc hk hj hj') htail
    (hpass2.single cccInit_mcnt (fun _ => rfl) hpass2.agree.cccInit)
  have hpass3 := Lockstep.iterate_all (loopRule_p3 c) hm hpos (A := fun _ => Agree m m [])
    (fun _ _ _ hk hj hj' hA => hA.p3 c hm hk hj hj')
    (hccc.single cccSt_mcnt (fun _ => rfl) hccc.agree.cccSt)
  simpa only [emeBody, hs, hs'] using hpass3
end

/-! ### Results -/

/-- The host reads the same ERR, the same RLEN and the same bytes of OBUF. -/
def SameResult (t t' : State) : Prop :=
  t.err = t'.err ∧ t.rlen = t'.rlen ∧ ∀ o, obufRead t o = obufRead t' o

theorem obufRead_fail (e : Err) (s : State) (o : Nat) : obufRead (fail e s) o = 0 := by simp [obufRead]

theorem sameResult_fail (e : Err) (s s' : State) : SameResult (fail e s) (fail e s') :=
  ⟨rfl, rfl, fun o => by rw [obufRead_fail, obufRead_fail]⟩

theorem toNat_finish_rlen {s : State} (h : s.mcnt.toNat ≤ 128) : (finish s).rlen.toNat = 16 * s.mcnt.toNat := by
  have h16 : (16 : BitVec 16).toNat = 16 := rfl
  rw [finish_rlen, BitVec.toNat_mul, BitVec.zeroExtend, BitVec.toNat_setWidth, h16]
  omega

/-- FINISH makes the agreed Blocks, and no others, readable. -/
theorem sameResult_finish {m k l : Nat} {rs : List (State → Block)} {s s' : State} (hm : m ≤ 128)
    (h : Lockstep m k (Agree m l rs) s s') : SameResult (finish s) (finish s') := by
  have hmcnt : s.mcnt = s'.mcnt := BitVec.eq_of_toNat_eq (h.left.mcnt.trans h.right.mcnt.symm)
  have hrlen : (finish s).rlen = (finish s').rlen := by rw [finish_rlen, finish_rlen, hmcnt]
  refine ⟨h.agree.err, hrlen, fun o => ?_⟩
  have hlen : (finish s').rlen.toNat = 16 * m := by
    rw [toNat_finish_rlen (by rw [h.right.mcnt]; exact hm), h.right.mcnt]
  simp only [obufRead, finish_busy, finish_obuf, true_and, hrlen, hlen]
  split
  · rename_i ho
    exact h.agree.obuf.read ho
  · rfl

/-! ### From issue to the command's phases -/

section
variable {i : Instr} {s s' : State}

theorem agree_dispatch (hI : Inv s) (hI' : Inv s') (htweak : s.tweak = s'.tweak) (hibuf : s.ibuf = s'.ibuf) :
    Agree 0 0 [] (dispatch (issue i s)) (dispatch (issue i s')) where
  inputs := by simp [inputs, htweak, hibuf]
  obuf := by simpa using agreeBelow_zero hI.obuf_wf hI'.obuf_wf
  lt := by simpa using agreeBelow_zero hI.lt_wf hI'.lt_wf
  regs := by simp

/-- A command that reads MLEN runs with MCNT = MLEN div 16, between 1 and 128 (45_handle R203). -/
theorem dispatch_issue_mcnt (hlen : usesLength i.fields.func = true) (hv : validationError (issue i s) = none) :
    (dispatch (issue i s)).mcnt.toNat = blockCount s ∧ 0 < blockCount s ∧ blockCount s ≤ 128 := by
  have hbc : blockCount (issue i s) = blockCount s := by simp [blockCount]
  obtain ⟨-, -, hlength⟩ := validationError_none hv
  obtain ⟨-, hge, hle, -⟩ := hlength (by rw [issue_func]; exact hlen)
  rw [hbc] at hge hle
  refine ⟨?_, hge, hle⟩
  simp only [dispatch_mcnt, issue_func, hlen, if_true, hbc, BitVec.toNat_ofNat]
  omega
end

/-- A command whose phases between VALIDATE and FINISH end in lockstep has the same result in both runs. -/
theorem sameResult_command {i : Instr} {body : State → State} {s s' : State} (hb : s.busy = false)
    (hb' : s'.busy = false) (hv : validationError (issue i s) = validationError (issue i s'))
    (hbody : validationError (issue i s) = none → ∃ m ≤ 128, ∃ k l rs,
      Lockstep m k (Agree m l rs) (body (dispatch (issue i s))) (body (dispatch (issue i s')))) :
    SameResult (command i body s) (command i body s') := by
  cases he : validationError (issue i s) with
  | some e =>
    rw [command_of_error hb he, command_of_error hb' (hv.symm.trans he)]
    exact sameResult_fail e _ _
  | none =>
    rw [command_of_valid hb he, command_of_valid hb' (hv.symm.trans he)]
    obtain ⟨m, hm, k, l, rs, h⟩ := hbody he
    exact sameResult_finish hm h

/-- Settles O53, by following what the two runs agree on from phase to phase. -/
theorem resultsDependOnInputsOnly : Obligations.ResultsDependOnInputsOnly := by
  unfold Obligations.ResultsDependOnInputsOnly
  intro c i s s' hI hI' hb hb' hcbs htweak htlen hmlen hibuf
  have hv : validationError (issue i s) = validationError (issue i s') :=
    validationError_congr (by simp) (by simpa using hcbs) (by simpa using htlen) (by simpa using hmlen)
  have hstart : Agree 0 0 [] (dispatch (issue i s)) (dispatch (issue i s')) := agree_dispatch hI hI' htweak hibuf
  have hcount : blockCount s = blockCount s' := by rw [blockCount, hmlen, blockCount]
  rw [effect_eq_command, effect_eq_command]
  refine sameResult_command hb hb' hv fun hvalid => ?_
  have hlength (hlen : usesLength i.fields.func = true) :
      (dispatch (issue i s)).mcnt.toNat = blockCount s ∧ (dispatch (issue i s')).mcnt.toNat = blockCount s ∧
        0 < blockCount s ∧ blockCount s ≤ 128 := by
    obtain ⟨hm, hpos, hle⟩ := dispatch_issue_mcnt hlen hvalid
    obtain ⟨hm', -, -⟩ := dispatch_issue_mcnt hlen (hv.symm.trans hvalid)
    exact ⟨hm, hm'.trans hcount.symm, hpos, hle⟩
  cases i with
  | dbl => exact ⟨1, by decide, 1, 0, [], lockstep_unit unitRule_uDbl hstart (by simp only [hstart.ib])⟩
  | bxor => exact ⟨1, by decide, 1, 0, [], lockstep_unit unitRule_uXor hstart (by simp only [hstart.ib])⟩
  | ciphE | ciphD =>
    exact ⟨1, by decide, 1, 0, [], lockstep_unit (unitRule_uCiph c) hstart (by simp only [hstart.ib, hstart.dir])⟩
  | lgen =>
    obtain ⟨hm, hm', hpos, hle⟩ := hlength rfl
    exact ⟨_, hle, 0, _, _, lockstep_tableBody_lgen c hle hpos hm hm' rfl hstart⟩
  | emeE | emeD =>
    obtain ⟨hm, hm', hpos, hle⟩ := hlength rfl
    exact ⟨_, hle, 0, _, _, lockstep_emeBody c hle hpos hm hm' rfl hstart⟩

end Sys2Proof.Proofs.Statelessness

/-! The host port, address by address: one equation per row of the read and write maps (20_memory R62, R63), the OBUF gate
(R64), and that a command which reports an error ended in `fail`, so that the gate is shut after it. -/

namespace Sys2Proof.Proofs.HostPort

open Sys2Proof.Machine

/-! ### Host transactions as steps -/

theorem step_of_read {s : State} {a : Addr} {rest : List Event} (h : s.schedule = .read a :: rest) :
    step s = .next (recordRead a { s with schedule := rest }) := by
  simp only [step, stepOver, h, applyEvent]

theorem step_of_write {s : State} {a : Addr} {v : Byte} {rest : List Event} (h : s.schedule = .write a v :: rest) :
    step s = .next (hostWrite a v { s with schedule := rest }) := by
  simp only [step, stepOver, h, applyEvent]

/-! ### The OBUF gate -/

theorem obufRead_of_busy {s : State} (h : s.busy = true) (o : Nat) : obufRead s o = 0 := by simp [obufRead, h]

theorem obufRead_of_rlen_le {s : State} {o : Nat} (h : s.rlen.toNat ≤ o) : obufRead s o = 0 :=
  if_neg fun hopen => Nat.not_lt.mpr h hopen.2

theorem obufRead_of_lt_rlen {s : State} {o : Nat} (hb : s.busy = false) (h : o < s.rlen.toNat) :
    obufRead s o = Memory.read s.obuf o := if_pos ⟨hb, h⟩

/-! ### Host reads -/

section
variable (s : State) {a : Addr}

theorem hostRead_ibuf (h : a.toNat ≤ 0x07FF) : hostRead s a = Memory.read s.ibuf a.toNat :=
  if_pos (Nat.lt_succ_of_le h)

theorem hostRead_obuf (hlo : 0x0800 ≤ a.toNat) (hhi : a.toNat ≤ 0x0FFF) :
    hostRead s a = obufRead s (a.toNat - 0x0800) := by
  rw [hostRead, if_neg (by omega), if_pos (by omega)]

theorem hostRead_tweak (hlo : 0x1000 ≤ a.toNat) (hhi : a.toNat ≤ 0x100F) :
    hostRead s a = byteOf s.tweak (a.toNat - 0x1000) := by
  rw [hostRead, if_neg (by omega), if_neg (by omega), if_pos hhi]

theorem hostRead_tlen : hostRead s 0x1010 = s.tlen := rfl
theorem hostRead_cmd : hostRead s 0x1011 = 0 := rfl
theorem hostRead_mlen_low : hostRead s 0x1012 = s.mlen.extractLsb' 0 8 := rfl
theorem hostRead_mlen_high : hostRead s 0x1013 = s.mlen.extractLsb' 8 8 := rfl
theorem hostRead_status : hostRead s 0x1014 = statusByte s := rfl
theorem hostRead_err : hostRead s 0x1015 = s.err.code := rfl
theorem hostRead_rlen_low : hostRead s 0x1016 = s.rlen.extractLsb' 0 8 := rfl
theorem hostRead_rlen_high : hostRead s 0x1017 = s.rlen.extractLsb' 8 8 := rfl

theorem hostRead_reserved (h : 0x1018 ≤ a.toNat) : hostRead s a = 0 := by
  rw [hostRead]
  iterate 11 rw [if_neg (by omega)]

/-- STATUS is BUSY + 2 DONE + 4 CFAIL: the three bits do not overlap. -/
theorem statusByte_eq_sum : statusByte s = BitVec.ofNat 8 (s.busy.toNat + 2 * s.done.toNat + 4 * s.cfail.toNat) := by
  rw [statusByte]
  generalize s.busy = busy, s.done = done, s.cfail = cfail
  revert busy done cfail
  decide
end

/-- Settles O45, row by row of the read map. -/
theorem hostReadMap : Obligations.HostReadMap := by
  unfold Obligations.HostReadMap
  intro s a rest hs
  let u : State := { s with schedule := rest }
  exact ⟨hostRead u a, step_of_read hs, hostRead_ibuf u, hostRead_obuf u, hostRead_tweak u,
    fun ha => ha ▸ hostRead_tlen u, fun ha => ha ▸ hostRead_cmd u,
    fun ha => ha ▸ hostRead_mlen_low u, fun ha => ha ▸ hostRead_mlen_high u,
    fun ha => ha ▸ (hostRead_status u).trans (statusByte_eq_sum u), fun ha => ha ▸ hostRead_err u,
    fun ha => ha ▸ hostRead_rlen_low u, fun ha => ha ▸ hostRead_rlen_high u, hostRead_reserved u⟩

/-! ### Host writes while not BUSY -/

section
variable {s : State} {a : Addr} (hb : s.busy = false) (v : Byte)
include hb

theorem hostWrite_ibuf (h : a.toNat ≤ 0x07FF) :
    hostWrite a v s = { s with ibuf := Memory.write s.ibuf a.toNat v } := by
  rw [hostWrite, if_neg (by simp [hb]), if_pos (by omega)]

theorem hostWrite_tweak (hlo : 0x1000 ≤ a.toNat) (hhi : a.toNat ≤ 0x100F) :
    hostWrite a v s = { s with tweak := setByte s.tweak (a.toNat - 0x1000) v } := by
  rw [hostWrite, if_neg (by simp [hb]), if_neg (by omega), if_pos ⟨hlo, hhi⟩]

theorem hostWrite_tlen : hostWrite 0x1010 v s = { s with tlen := v } := by simp [hostWrite, hb]

theorem hostWrite_cmd : hostWrite 0x1011 v s = issueByte v s := by simp [hostWrite, hb]

theorem hostWrite_mlen_low :
    hostWrite 0x1012 v s = { s with mlen := (s.mlen &&& 0xFF00) ||| v.zeroExtend 16 } := by simp [hostWrite, hb]

theorem hostWrite_mlen_high :
    hostWrite 0x1013 v s = { s with mlen := (s.mlen &&& 0x00FF) ||| (v.zeroExtend 16 <<< 8) } := by
  simp [hostWrite, hb]

/-- OBUF, STATUS, ERR, RLEN and the reserved addresses ignore a write. -/
theorem hostWrite_readOnly (h : 0x0800 ≤ a.toNat ∧ a.toNat ≤ 0x0FFF ∨ 0x1014 ≤ a.toNat) : hostWrite a v s = s := by
  rw [hostWrite, if_neg (by simp [hb])]
  iterate 6 rw [if_neg (by omega)]
end

/-! ### The two bytes of MLEN -/

section
variable (m : BitVec 16) (v : Byte)

/-- Replacing the low byte of `m` by `v` keeps the high byte. -/
theorem bytes_of_replaceLow :
    ((m &&& 0xFF00) ||| v.zeroExtend 16).extractLsb' 0 8 = v ∧
    ((m &&& 0xFF00) ||| v.zeroExtend 16).extractLsb' 8 8 = m.extractLsb' 8 8 := by
  constructor
  · ext i hi
    interval_cases i <;> simp
  · ext i hi
    interval_cases i <;> simp

/-- Replacing the high byte of `m` by `v` keeps the low byte. -/
theorem bytes_of_replaceHigh :
    ((m &&& 0x00FF) ||| (v.zeroExtend 16 <<< 8)).extractLsb' 0 8 = m.extractLsb' 0 8 ∧
    ((m &&& 0x00FF) ||| (v.zeroExtend 16 <<< 8)).extractLsb' 8 8 = v := by
  constructor
  · ext i hi
    interval_cases i <;> simp
  · ext i hi
    interval_cases i <;> simp
end

/-- Settles O46, row by row of the write map. -/
theorem hostWriteMap : Obligations.HostWriteMap := by
  unfold Obligations.HostWriteMap
  intro s a v rest hs
  let u : State := { s with schedule := rest }
  rw [step_of_write hs]
  refine ⟨fun hbusy => congrArg _ (hostWrite_of_busy (s := u) hbusy a v), fun hidle => ?_⟩
  have hb : u.busy = false := hidle
  refine ⟨fun h => congrArg _ (hostWrite_ibuf hb v h),
    fun hlo hhi => congrArg _ (hostWrite_readOnly hb v (.inl ⟨hlo, hhi⟩)),
    fun hlo hhi => congrArg _ (hostWrite_tweak hb v hlo hhi), ?_, ?_, ?_, ?_,
    fun h => congrArg _ (hostWrite_readOnly hb v (.inr h))⟩
  · rintro rfl
    exact congrArg _ (hostWrite_tlen hb v)
  · rintro rfl
    exact congrArg _ (hostWrite_cmd hb v)
  · rintro rfl
    exact ⟨_, congrArg _ (hostWrite_mlen_low hb v), bytes_of_replaceLow s.mlen v⟩
  · rintro rfl
    exact ⟨_, congrArg _ (hostWrite_mlen_high hb v), bytes_of_replaceHigh s.mlen v⟩

/-! ### Commands that report an error -/

@[simp] theorem tableBody_err (c : Cipher) (s : State) : (tableBody c s).err = s.err := by
  simp [tableBody, iterate_keeps (·.err) lGen_err]

@[simp] theorem emeBody_err (c : Cipher) (s : State) : (emeBody c s).err = s.err := by
  simp [emeBody, iterate_keeps (·.err) (p1_err c), iterate_keeps (·.err) mpAcc_err, iterate_keeps (·.err) p2_err,
    iterate_keeps (·.err) cccAcc_err, iterate_keeps (·.err) (p3_err c)]

/-- VALIDATE is the only phase that sets ERR, so a command that reports an error ended in `fail` (60_exceptions R222). -/
theorem effect_eq_fail_of_err {c : Cipher} {i : Instr} {s : State} (hb : s.busy = false)
    (herr : (effect c i s).err ≠ .none) : ∃ e, effect c i s = fail e (issue i s) := by
  rw [effect_eq_command] at herr ⊢
  cases hv : validationError (issue i s) with
  | some e => exact ⟨e, command_of_error hb hv _⟩
  | none =>
    rw [command_of_valid hb hv] at herr
    cases i <;> simp at herr

/-- Settles O49: the gate's three cases, and RLEN = 0 after a failed command. -/
theorem outputGate : Obligations.OutputGate := by
  unfold Obligations.OutputGate
  intro s a hlo hhi
  simp only [hostRead_obuf _ hlo hhi]
  refine ⟨fun hb => obufRead_of_busy hb _, obufRead_of_rlen_le, obufRead_of_lt_rlen, ?_⟩
  intro i t hb hexec herr
  rw [exec_eq_effect, Host.Outcome.next.injEq] at hexec
  subst hexec
  obtain ⟨e, hfail⟩ := effect_eq_fail_of_err hb herr
  rw [hfail]
  exact Statelessness.obufRead_fail e _ _

end Sys2Proof.Proofs.HostPort

/-! The command byte: a byte decodes exactly to the command it encodes, and the seven legal bytes (30_encoding R92, R93,
R95). Then issue, of a legal byte and of an illegal one (R96, 60_exceptions R223). -/

namespace Sys2Proof.Proofs.CommandByte

open Sys2Proof.Machine

/-! ### Decoding and encoding -/

@[simp] theorem decode_encode (i : Instr) : decode (encode i) = .ok i := by cases i <;> rfl

/-- The three fields of R92 cover the byte without overlap. -/
theorem byteOfFields_fieldsOf (v : Byte) : byteOfFields (fieldsOf v) = v := by
  simp only [byteOfFields, fieldsOf]
  rw [BitVec.extractLsb'_append_extractLsb'_eq_extractLsb' (show 4 = 1 + 3 from rfl),
    BitVec.extractLsb'_append_extractLsb'_eq_extractLsb' (show 1 = 0 + 1 from rfl), BitVec.extractLsb'_eq_self]

/-- The commands of 30_encoding R93, in its order. -/
def commands : List Instr := [.dbl, .bxor, .ciphE, .ciphD, .lgen, .emeE, .emeD]

theorem mem_commands (i : Instr) : i ∈ commands := by cases i <;> decide

/-- Legal fields are those of a command: ZERO4 is 0, and each legal FUNC and DIR is a row of 30_encoding R93. -/
theorem exists_fields_of_wellFormed {f : Cmd8} (h : f.wellFormed = true) : ∃ i : Instr, i.fields = f := by
  obtain ⟨zero4, func, dir⟩ := f
  simp only [Cmd8.wellFormed, Cmd8.zero4Ok, Bool.and_eq_true, beq_iff_eq] at h
  obtain ⟨⟨rfl, hfunc⟩, hdir⟩ := h
  have hrow : ∃ i ∈ commands, i.fields = ⟨0, func, dir⟩ := by
    revert func dir
    decide
  obtain ⟨i, -, hi⟩ := hrow
  exact ⟨i, hi⟩

/-- The three checks that `decode` makes are those of well-formed fields. -/
theorem wellFormed_of_decode {v : Byte} {i : Instr} (h : decode v = .ok i) : (fieldsOf v).wellFormed = true := by
  cases hzero4 : (fieldsOf v).zero4Ok with
  | false => simp [decode, hzero4] at h
  | true =>
    cases hfunc : (fieldsOf v).funcOk with
    | false => simp [decode, hzero4, hfunc] at h
    | true =>
      cases hdir : (fieldsOf v).dirOk with
      | false => simp [decode, hzero4, hfunc, hdir] at h
      | true => rw [Cmd8.wellFormed, hzero4, hfunc, hdir]; rfl

/-- A byte decodes to at most the one command it encodes. -/
theorem decode_eq_ok_iff {v : Byte} {i : Instr} : decode v = .ok i ↔ encode i = v := by
  constructor
  · intro h
    obtain ⟨j, hj⟩ := exists_fields_of_wellFormed (wellFormed_of_decode h)
    have hv : encode j = v := by rw [encode, hj, byteOfFields_fieldsOf]
    have hij : j = i := by simpa [← hv] using h
    rw [← hij, hv]
  · rintro rfl
    exact decode_encode i

/-! ### The seven bytes -/

/-- The bytes that decode are those of the table of 30_encoding R93. -/
theorem mem_commandBytes_iff {v : Byte} :
    v ∈ ([0x02, 0x04, 0x06, 0x07, 0x08, 0x0A, 0x0B] : List Byte) ↔ ∃ i, decode v = .ok i := by
  have hbytes : ([0x02, 0x04, 0x06, 0x07, 0x08, 0x0A, 0x0B] : List Byte) = commands.map encode := rfl
  simp only [hbytes, List.mem_map, mem_commands, true_and, decode_eq_ok_iff]

/-! ### Issue -/

theorem issueByte_encode (i : Instr) (s : State) : issueByte (encode i) s = issue i s := by
  rw [issueByte, decode_encode]

theorem issueByte_of_illegal {v : Byte} (h : ∀ i, decode v ≠ .ok i) (s : State) : issueByte v s = issueIllegal s := by
  obtain ⟨i, hi, -⟩ | ⟨-, -, he⟩ := issueByte_cases v s
  · exact absurd hi (h i)
  · exact he

/-- Settles O2: the legal bytes are the commands' encodings, and an illegal byte is the illegal issue. -/
theorem sevenBytesAreCommands : Obligations.SevenBytesAreCommands := by
  unfold Obligations.SevenBytesAreCommands
  intro v
  refine ⟨?_, fun i => decode_eq_ok_iff, fun h s => issueByte_of_illegal h s⟩
  rw [← mem_commandBytes_iff]
  simp only [List.mem_cons, List.not_mem_nil, or_false]

/-- Settles O47: a host write to CMD is `issue` of the byte, whose fields are latched from the command's encoding. -/
theorem issueCommand : Obligations.IssueCommand := by
  unfold Obligations.IssueCommand
  intro s v rest hs hb
  let u : State := { s with schedule := rest }
  have hstep : step s = .next (issueByte v u) := by
    rw [HostPort.step_of_write hs, HostPort.hostWrite_cmd (s := u) hb]
  rw [hstep]
  constructor
  · intro hv
    obtain ⟨i, hi⟩ := mem_commandBytes_iff.mp hv
    obtain rfl : encode i = v := decode_eq_ok_iff.mp hi
    exact congrArg _ (issueByte_encode i u)
  · intro hv
    have hillegal : ∀ i, decode v ≠ .ok i := fun i hi => hv (mem_commandBytes_iff.mpr ⟨i, hi⟩)
    exact congrArg _ (issueByte_of_illegal hillegal u)

end Sys2Proof.Proofs.CommandByte

/-! The operand units as functions: the top bit of a Block, `double` bit by bit, as an integer and byte by byte
(40_doubler R110 to R112), and the two software forms on byte sequences (R114, 41_blockxor R125). -/

namespace Sys2Proof.Proofs.OperandUnits

open Sys2Proof.Machine

/-! ### The top bit of a Block -/

theorem topBit_eq_decide_toNat (X : Block) : X.getLsbD 127 = decide (2 ^ 127 ≤ X.toNat) := BitVec.getLsbD_last X

theorem topBit_eq_decide_byte15 (X : Block) : X.getLsbD 127 = decide (0x80 ≤ (byteOf X 15).toNat) := by
  rw [← BitVec.getLsbD_last (byteOf X 15), getLsbD_byteOf]
  rfl

/-! ### `double` bit by bit and as an integer -/

/-- Settles O22: the shift moves bit `k - 1` to bit `k`, and RCONST has the coefficients of x^7 + x^2 + x + 1. -/
theorem doubleMultipliesByX : Obligations.DoubleMultipliesByX := by
  unfold Obligations.DoubleMultipliesByX
  intro X k hk
  have hshift : (X <<< 1).getLsbD k = ((k != 0) && X.getLsbD (k - 1)) := by
    cases k with
    | zero => simp
    | succ k => simp [hk, Nat.lt_of_succ_lt hk]
  have hreduce : (if X.getLsbD 127 then Config.rconst else 0).getLsbD k =
      (X.getLsbD 127 && (k == 0 || k == 1 || k == 2 || k == 7)) := by
    cases X.getLsbD 127 with
    | false => simp
    | true => simp [getLsbD_rconst, beq_eq_decide]
  rw [double, BitVec.getLsbD_xor, hshift, hreduce]

/-- Settles O21: the shift is 2 int(X) mod 2^128, and the bit shifted out says whether int(X) is at least 2^127. -/
theorem doubleIntegerForm : Obligations.DoubleIntegerForm := by
  unfold Obligations.DoubleIntegerForm
  intro X
  have hshift : (X <<< 1).toNat = 2 * X.toNat % 2 ^ 128 := by
    rw [BitVec.toNat_shiftLeft, Nat.shiftLeft_eq, Nat.mul_comm, pow_one]
  have hreduce : (if X.getLsbD 127 then Config.rconst else 0).toNat = if 2 ^ 127 ≤ X.toNat then 0x87 else 0 := by
    simp only [topBit_eq_decide_toNat, decide_eq_true_eq, apply_ite BitVec.toNat]
    rfl
  rw [double, BitVec.toNat_xor, hshift, hreduce]

/-! ### `double` byte by byte -/

theorem byteOf_zero_shiftLeft_one (X : Block) : byteOf (X <<< 1) 0 = byteOf X 0 <<< 1 := by
  apply BitVec.eq_of_getLsbD_eq
  intro k hk
  have hblock : k < 128 := by omega
  have hprev : k - 1 < 8 := by omega
  simp only [getLsbD_byteOf, BitVec.getLsbD_shiftLeft]
  simp [hk, hblock, hprev]

/-- Bit 7 of the byte below is carried into bit 0. -/
theorem byteOf_succ_shiftLeft_one (X : Block) {j : Nat} (hj : j + 1 < 16) :
    byteOf (X <<< 1) (j + 1) = (byteOf X (j + 1) <<< 1) ||| (byteOf X j >>> 7) := by
  apply BitVec.eq_of_getLsbD_eq
  intro k hk
  simp only [getLsbD_byteOf, BitVec.getLsbD_or, BitVec.getLsbD_shiftLeft, BitVec.getLsbD_ushiftRight]
  cases k with
  | zero =>
    have hblock : 8 * (j + 1) < 128 := by omega
    have hcarry : 8 * (j + 1) - 1 = 8 * j + 7 := by omega
    simp [hblock, hcarry]
  | succ k =>
    have hblock : 8 * (j + 1) + (k + 1) < 128 := by omega
    have hprev : k < 8 := by omega
    have htop : ¬ 7 + (k + 1) < 8 := by omega
    have hindex : 8 * (j + 1) + (k + 1) - 1 = 8 * (j + 1) + k := by omega
    simp [hk, hblock, hprev, htop, hindex]

/-- RCONST is the byte 0x87 in byte 0. -/
theorem byteOf_rconst : byteOf Config.rconst 0 = 0x87 ∧ ∀ j < 16, 1 ≤ j → byteOf Config.rconst j = 0 := by decide

/-- Settles O20: each byte of the shift takes its carry from the byte below, and RCONST reaches byte 0 only. -/
theorem doubleBytewise : Obligations.DoubleBytewise := by
  unfold Obligations.DoubleBytewise
  intro X
  obtain ⟨hlow, hhigh⟩ := byteOf_rconst
  have hreduce (j : Nat) : byteOf (if X.getLsbD 127 then Config.rconst else 0) j =
      if 0x80 ≤ (byteOf X 15).toNat then byteOf Config.rconst j else 0 := by
    simp only [topBit_eq_decide_byte15, decide_eq_true_eq]
    split
    · rfl
    · simp [byteOf]
  simp only [double, byteOf_xor, hreduce]
  constructor
  · rw [byteOf_zero_shiftLeft_one, hlow]
  · intro j hpos hle
    obtain ⟨j, rfl⟩ := Nat.exists_eq_add_of_le' hpos
    rw [byteOf_succ_shiftLeft_one X (by omega), hhigh _ (by omega) hpos, ite_self]
    exact BitVec.xor_zero

/-! ### The software forms -/

theorem doubleSeq_bytesOfBlock (X : Block) : doubleSeq (bytesOfBlock X) = .ok (bytesOfBlock (double X)) := by
  rw [doubleSeq, if_pos (length_bytesOfBlock X), blockOfBytes_bytesOfBlock]

theorem blockXorSeq_of_length_eq {A B : List Byte} (h : A.length = B.length) :
    blockXorSeq A B = .ok (List.zipWith (· ^^^ ·) A B) := if_pos h

theorem getElem?_zipWith_xor {A B : List Byte} {i : Nat} (hA : i < A.length) (hB : i < B.length) :
    (List.zipWith (· ^^^ ·) A B)[i]? = some (A.getD i 0 ^^^ B.getD i 0) := by
  simp [hA, hB]

theorem byteOf_blockXor (X Y : Block) (i : Nat) : byteOf (blockXor X Y) i = byteOf X i ^^^ byteOf Y i :=
  byteOf_xor X Y i

theorem zipWith_xor_bytesOfBlock (X Y : Block) :
    List.zipWith (· ^^^ ·) (bytesOfBlock X) (bytesOfBlock Y) = bytesOfBlock (blockXor X Y) := by
  simp only [bytesOfBlock, List.zipWith_map, List.zipWith_self, List.map_inj_left, byteOf_blockXor, implies_true]

/-- Settles O24: each form by its length check, and the agreement with the units byte by byte. -/
theorem softwareFormsAgreeOrFail : Obligations.SoftwareFormsAgreeOrFail := by
  unfold Obligations.SoftwareFormsAgreeOrFail
  refine ⟨fun X h => if_neg h, doubleSeq_bytesOfBlock, fun A B h => if_neg h, fun A B h => ?_, fun X Y => ?_,
    fun X Y i _ => byteOf_blockXor X Y i⟩
  · exact ⟨_, blockXorSeq_of_length_eq h, by simp [h], fun i hi => getElem?_zipWith_xor hi (h ▸ hi)⟩
  · rw [blockXorSeq_of_length_eq (by simp), zipWith_xor_bytesOfBlock]

end Sys2Proof.Proofs.OperandUnits

/-! The unit commands: a unit phase stores one Block and goes to FINISH, and a unit command that passes VALIDATE ends in one
and the same state, whole or in three sequencer steps (40_doubler R115, R116, 41_blockxor R129, 42_cipher_adapter R142). -/

namespace Sys2Proof.Proofs.UnitCommands

open Sys2Proof.Machine

/-! ### The unit phases -/

/-- What a unit phase with result `X` leaves behind. -/
def storeUnit (X : Block) (s : State) : State :=
  { s with obuf := Memory.setBlock s.obuf 0 X, mcnt := 1, phase := .finish }

theorem uDbl_eq_storeUnit (s : State) : uDbl s = storeUnit (double (ib s 0)) s := rfl
theorem uXor_eq_storeUnit (s : State) : uXor s = storeUnit (blockXor (ib s 0) (ib s 1)) s := rfl
theorem uCiph_eq_storeUnit (c : Cipher) (s : State) : uCiph c s = storeUnit (bc c s.dir (ib s 0)) s := rfl

section
variable (c : Cipher) {s : State}

theorem seqStep_uDbl (h : s.phase = .uDbl) : seqStep c s = .next (storeUnit (double (ib s 0)) s) := by
  simp only [seqStep, h, uDbl_eq_storeUnit]

theorem seqStep_uXor (h : s.phase = .uXor) : seqStep c s = .next (storeUnit (blockXor (ib s 0) (ib s 1)) s) := by
  simp only [seqStep, h, uXor_eq_storeUnit]

theorem seqStep_uCiph (h : s.phase = .uCiph) : seqStep c s = .next (storeUnit (bc c s.dir (ib s 0)) s) := by
  simp only [seqStep, h, uCiph_eq_storeUnit]

theorem seqStep_finish (h : s.phase = .finish) : seqStep c s = .next (finish s) := by
  simp only [seqStep, h]
end

/-- Settles O33: one rule for each unit phase. -/
theorem unitPhaseRules : Obligations.UnitPhaseRules := by
  unfold Obligations.UnitPhaseRules
  exact fun c s => ⟨seqStep_uDbl c, seqStep_uXor c, seqStep_uCiph c⟩

/-! ### A unit command from issue to completion -/

/-- The state in which the unit command `i` with result `X`, issued in `s`, ends. -/
def unitDone (i : Instr) (X : Block) (s : State) : State :=
  { s with
    obuf := Memory.setBlock s.obuf 0 X, rlen := 16, mcnt := 1, busy := false, done := true, err := .none,
    func := i.fields.func, dir := i.fields.dir, phase := .idle }

theorem ib_dispatch_issue (i : Instr) (s : State) (j : Nat) : ib (dispatch (issue i s)) j = ib s j := by simp [ib]

theorem finish_storeUnit_dispatch_issue (i : Instr) (X : Block) (s : State) :
    finish (storeUnit X (dispatch (issue i s))) = unitDone i X s := by
  apply State.ext <;> simp [storeUnit, unitDone]

section
variable {c : Cipher} {i : Instr} {s : State} (hvalid : validationError (issue i s) = none)
include hvalid

/-- Every command has a phase to be dispatched to, so VALIDATE's own step is `dispatch` (45_handle R203). -/
theorem seqStep_issue : seqStep c (issue i s) = .next (dispatch (issue i s)) := by
  have hfunc : funcDispatches i.fields.func = true := by cases i <;> rfl
  simp only [seqStep, issue_phase, issue_func, hfunc, if_true, validate_of_none hvalid]

theorem command_eq_unitDone (hb : s.busy = false) {body : State → State} {X : Block}
    (hbody : body (dispatch (issue i s)) = storeUnit X (dispatch (issue i s))) :
    command i body s = unitDone i X s := by
  rw [command_of_valid hb hvalid, hbody, finish_storeUnit_dispatch_issue]

/-- VALIDATE, the unit phase, FINISH. -/
theorem seqRun_unit_command {X : Block}
    (hunit : seqStep c (dispatch (issue i s)) = .next (storeUnit X (dispatch (issue i s)))) :
    seqRun c 3 (issue i s) = .next (unitDone i X s) := by
  rw [seqRun_succ (seqStep_issue hvalid), seqRun_succ hunit, seqRun_succ (seqStep_finish c rfl), seqRun_zero,
    finish_storeUnit_dispatch_issue]
end

/-- Settles O5: DBL passes VALIDATE whatever CBS, TLEN and MLEN hold, and its unit phase is U_DBL. -/
theorem dblDoublesBlockZero : Obligations.DblDoublesBlockZero := by
  unfold Obligations.DblDoublesBlockZero
  refine ⟨rfl, fun s hb => ?_⟩
  have hvalid := validationError_issue_dbl s
  constructor
  · refine congrArg Host.Outcome.next (command_eq_unitDone hvalid hb ?_)
    rw [uDbl_eq_storeUnit, ib_dispatch_issue]
  · intro c
    refine seqRun_unit_command hvalid ?_
    rw [seqStep_uDbl c rfl, ib_dispatch_issue]

end Sys2Proof.Proofs.UnitCommands

/-! BXOR, the unit command of two operands: the shared end of a unit command, with U_XOR as its unit phase (41_blockxor
R128). -/

namespace Sys2Proof.Proofs.UnitCommands

open Sys2Proof.Machine

/-- U_XOR reads the two operand Blocks that IBUF holds at issue. -/
theorem uXor_dispatch_issue (i : Instr) (s : State) :
    uXor (dispatch (issue i s)) = storeUnit (blockXor (ib s 0) (ib s 1)) (dispatch (issue i s)) := by
  rw [uXor_eq_storeUnit, ib_dispatch_issue, ib_dispatch_issue]

/-- Settles O6: BXOR passes VALIDATE whatever CBS, TLEN and MLEN hold, and its unit phase is U_XOR. -/
theorem bxorXorsBlocksZeroAndOne : Obligations.BxorXorsBlocksZeroAndOne := by
  unfold Obligations.BxorXorsBlocksZeroAndOne
  refine ⟨rfl, fun s hb => ?_⟩
  have hvalid := validationError_issue_bxor s
  constructor
  · exact congrArg Host.Outcome.next (command_eq_unitDone hvalid hb (uXor_dispatch_issue .bxor s))
  · intro c
    have hunit := seqStep_uXor c (s := dispatch (issue .bxor s)) rfl
    rw [← uXor_eq_storeUnit, uXor_dispatch_issue] at hunit
    exact seqRun_unit_command hvalid hunit

end Sys2Proof.Proofs.UnitCommands

/-! The cipher commands: CIPH.E and CIPH.D are the unit commands of FUNC 3, whose unit phase is U_CIPH in the command's
direction and whose one check is CBS = 16 (42_cipher_adapter R140 to R142). -/

namespace Sys2Proof.Proofs.CipherCommands

open Sys2Proof.Machine Sys2Proof.Proofs.UnitCommands

/-! ### A command that fails VALIDATE -/

/-- The first check that fails ends the command in VALIDATE's own step, whatever the cipher (60_exceptions R222). -/
theorem seqRun_failed_command {i : Instr} {s : State} {e : Err} (h : validationError (issue i s) = some e)
    (c : Cipher) : seqRun c 1 (issue i s) = .next (fail e (issue i s)) := by
  have hfunc : funcDispatches i.fields.func = true := by cases i <;> rfl
  have hstep : seqStep c (issue i s) = .next (fail e (issue i s)) := by
    simp only [seqStep, issue_phase, issue_func, hfunc, if_true, validate_of_some h]
  rw [seqRun_succ hstep, seqRun_zero]

/-- CBS is the first check of a command that uses the cipher (45_handle R203). -/
theorem validationError_of_cbs_ne {s : State} (hcipher : usesCipher s.func = true) (hcbs : s.cbs ≠ 16) :
    validationError s = some .invalidBlockSize :=
  if_pos (by rw [hcipher, Bool.true_and, bne_iff_ne]; exact hcbs)

/-! ### The commands of FUNC 3 -/

/-- U_CIPH takes the direction of the command and the operand Block that IBUF holds at issue. -/
theorem uCiph_dispatch_issue (c : Cipher) (i : Instr) (s : State) :
    uCiph c (dispatch (issue i s)) = storeUnit (bc c i.fields.dir (ib s 0)) (dispatch (issue i s)) := by
  rw [uCiph_eq_storeUnit, ib_dispatch_issue, dispatch_dir, issue_dir]

section
variable {i : Instr} (hfunc : i.fields.func = 3) {s : State}
include hfunc

/-- Of the checks of VALIDATE, FUNC 3 makes only that of CBS: TLEN and MLEN are not read. -/
theorem validationError_issue_of_cbs (hcbs : s.cbs = 16) : validationError (issue i s) = none := by
  have hf : (issue i s).func = 3 := (issue_func i s).trans hfunc
  refine validationError_eq_none (fun _ => (issue_cbs i s).trans hcbs) (fun htweak => ?_) (fun hlength => ?_)
  · exact absurd (hf ▸ htweak) (by decide)
  · exact absurd (hf ▸ hlength) (by decide)

theorem validationError_issue_of_cbs_ne (hcbs : s.cbs ≠ 16) :
    validationError (issue i s) = some .invalidBlockSize := by
  refine validationError_of_cbs_ne ?_ (by rwa [issue_cbs])
  rw [issue_func, hfunc]
  rfl

/-- VALIDATE dispatches FUNC 3 to U_CIPH (45_handle R203). -/
theorem phase_dispatch_issue : (dispatch (issue i s)).phase = .uCiph := by
  rw [dispatch_phase, issue_func, hfunc]
  rfl

/-- With CBS 16 a cipher command ends with `BC(DIR, IB[0])` in OBUF, whole or in three sequencer steps. -/
theorem cipher_command_of_cbs (c : Cipher) (hb : s.busy = false) (hcbs : s.cbs = 16) :
    command i (uCiph c) s = unitDone i (bc c i.fields.dir (ib s 0)) s ∧
    seqRun c 3 (issue i s) = .next (unitDone i (bc c i.fields.dir (ib s 0)) s) := by
  have hvalid := validationError_issue_of_cbs hfunc hcbs
  constructor
  · exact command_eq_unitDone hvalid hb (uCiph_dispatch_issue c i s)
  · refine seqRun_unit_command hvalid ?_
    rw [seqStep_uCiph c (phase_dispatch_issue hfunc), ← uCiph_eq_storeUnit, uCiph_dispatch_issue]

/-- With another CBS a cipher command ends in `fail`, whole or in one sequencer step, before any cipher call. -/
theorem cipher_command_of_cbs_ne (c : Cipher) (hb : s.busy = false) (hcbs : s.cbs ≠ 16) :
    command i (uCiph c) s = fail .invalidBlockSize (issue i s) ∧
    ∀ c', seqRun c' 1 (issue i s) = .next (fail .invalidBlockSize (issue i s)) := by
  have herror := validationError_issue_of_cbs_ne hfunc hcbs
  exact ⟨command_of_error hb herror _, seqRun_failed_command herror⟩
end

/-- Settles O7: CIPH.E is the command of FUNC 3 and DIR 0, for which `BC` is E. -/
theorem ciphEEnciphersBlockZero : Obligations.CiphEEnciphersBlockZero := by
  unfold Obligations.CiphEEnciphersBlockZero
  refine ⟨rfl, fun s hb => ⟨fun hcbs => ?_, fun hcbs => ?_⟩⟩
  · exact (cipher_command_of_cbs (i := .ciphE) rfl Config.cipher hb hcbs).imp_left (congrArg Host.Outcome.next)
  · exact (cipher_command_of_cbs_ne (i := .ciphE) rfl Config.cipher hb hcbs).imp_left (congrArg Host.Outcome.next)

/-- Settles O8: CIPH.D is the command of FUNC 3 and DIR 1, for which `BC` is D. -/
theorem ciphDDeciphersBlockZero : Obligations.CiphDDeciphersBlockZero := by
  unfold Obligations.CiphDDeciphersBlockZero
  refine ⟨rfl, fun s hb => ⟨fun hcbs => ?_, fun hcbs => ?_⟩⟩
  · exact (cipher_command_of_cbs (i := .ciphD) rfl Config.cipher hb hcbs).imp_left (congrArg Host.Outcome.next)
  · exact (cipher_command_of_cbs_ne (i := .ciphD) rfl Config.cipher hb hcbs).imp_left (congrArg Host.Outcome.next)

end Sys2Proof.Proofs.CipherCommands

/-! The L-table: the table as the chain of doublings from E(ZERO) (43_ltable R150 to R152), and the micro-steps that build
it, with the shared end of every loop rule (43_ltable R153, R154, 44_transform section 3). -/

namespace Sys2Proof.Proofs.LTable

open Sys2Proof.Machine

/-! ### The table as a function -/

/-- The seed is doubled before it is stored, so the chain starts at `double ls` (43_ltable R151). -/
theorem multipliersFrom_eq_iterate (n : Nat) (ls : Block) :
    multipliersFrom n ls = List.iterate double (double ls) n := by
  induction n generalizing ls with
  | zero => rfl
  | succ n ih => rw [multipliersFrom, ih, List.iterate]

theorem deriveMultipliers_eq_iterate (c : Cipher) (m : Nat) :
    deriveMultipliers c m = List.iterate double (double (c.E 0)) m :=
  multipliersFrom_eq_iterate m (c.E 0)

@[simp] theorem length_deriveMultipliers (c : Cipher) (m : Nat) : (deriveMultipliers c m).length = m := by
  rw [deriveMultipliers_eq_iterate, List.length_iterate]

theorem getElem?_deriveMultipliers (c : Cipher) {i m : Nat} (hi : i < m) :
    (deriveMultipliers c m)[i]? = some (double^[i + 1] (c.E 0)) := by
  rw [deriveMultipliers_eq_iterate, List.getElem?_iterate _ _ _ _ hi, Function.iterate_succ_apply]

theorem take_deriveMultipliers (c : Cipher) {m n : Nat} (hmn : m ≤ n) :
    (deriveMultipliers c n).take m = deriveMultipliers c m := by
  rw [deriveMultipliers_eq_iterate, List.take_iterate, Nat.min_eq_left hmn, deriveMultipliers_eq_iterate]

/-- ZERO is a fixed point of `double` (40_doubler R113), so the chain from it stays there. -/
theorem eq_zero_of_mem_deriveMultipliers {c : Cipher} (hseed : c.E 0 = 0) {m : Nat} {L : Block}
    (hL : L ∈ deriveMultipliers c m) : L = 0 := by
  rw [deriveMultipliers_eq_iterate, hseed, double_zero] at hL
  obtain ⟨k, -, rfl⟩ := List.mem_iterate.mp hL
  exact Function.iterate_fixed double_zero k

/-- Settles O26, by the closed form of the chain of doublings. -/
theorem multipliersClosedForm : Obligations.MultipliersClosedForm := by
  unfold Obligations.MultipliersClosedForm
  intro c m
  refine ⟨length_deriveMultipliers c m, fun i hi => getElem?_deriveMultipliers c hi, fun i hi => ?_,
    fun n hmn => take_deriveMultipliers c hmn, fun hseed L hL => eq_zero_of_mem_deriveMultipliers hseed hL⟩
  rw [getElem?_deriveMultipliers c hi, getElem?_deriveMultipliers c (Nat.lt_of_succ_lt hi), Option.map_some,
    Function.iterate_succ_apply']

/-! ### The end of a loop rule -/

/-- The end of a loop rule writes J and PHASE only. -/
theorem advance_eq_update (next : Phase) (s : State) :
    advance next s = { s with j := (advance next s).j, phase := (advance next s).phase } := by
  apply State.ext <;> simp

theorem advance_of_last (next : Phase) {s : State} (hlast : s.j.toNat + 1 = s.mcnt.toNat) :
    (advance next s).j = 0 ∧ (advance next s).phase = next := by
  simp [hlast]

theorem advance_of_not_last (next : Phase) {s : State} (hj : s.j.toNat < s.mcnt.toNat) (hm : s.mcnt.toNat ≤ 128)
    (hlast : s.j.toNat + 1 ≠ s.mcnt.toNat) :
    (advance next s).j.toNat = s.j.toNat + 1 ∧ (advance next s).phase = s.phase := by
  rw [advance_j, advance_phase, if_neg hlast, if_neg hlast]
  exact ⟨toNat_succ_of_lt (Nat.lt_of_le_of_ne hj hlast) hm, rfl⟩

theorem loopStep_of_lt (rule : State → State) {s : State} (hj : s.j.toNat < s.mcnt.toNat)
    (hm : s.mcnt.toNat ≤ 128) : loopStep rule s = .next (rule s) := by
  have hready : loopReady s = true := by
    simp only [loopReady, Config.maxBlk, Bool.and_eq_true, decide_eq_true_eq]
    exact ⟨hj, hm⟩
  rw [loopStep, if_pos hready]

/-! ### The phases -/

section
variable (c : Cipher) {s : State}

theorem seqStep_lSeed (h : s.phase = .lSeed) : seqStep c s = .next (lSeed c s) := by
  simp only [seqStep, h]

theorem seqStep_lGen (h : s.phase = .lGen) (hfunc : s.func = 4 ∨ s.func = 5) (hj : s.j.toNat < s.mcnt.toNat)
    (hm : s.mcnt.toNat ≤ 128) : seqStep c s = .next (lGen s) := by
  have hlength : usesLength s.func = true := by
    obtain hlgen | heme := hfunc
    · rw [hlgen]; rfl
    · rw [heme]; rfl
  simp only [seqStep, h, hlength, if_true, loopStep_of_lt lGen hj hm]
end

/-- What one execution of L_GEN does before the end of its loop rule. -/
def storeMultiplier (s : State) : State :=
  { s with
    ls := double s.ls
    lt := Memory.setBlock s.lt s.j.toNat (double s.ls)
    obuf := if s.func = 4 then Memory.setBlock s.obuf s.j.toNat (double s.ls) else s.obuf }

theorem lGen_eq_advance (s : State) : lGen s = advance (lGenNext s.func) (storeMultiplier s) := rfl

/-- Settles O34: one rule for each phase, L_GEN's with the end of a loop rule. -/
theorem tablePhaseRules : Obligations.TablePhaseRules := by
  unfold Obligations.TablePhaseRules
  refine fun c s => ⟨seqStep_lSeed c, fun hphase hfunc hj hm => ?_⟩
  refine ⟨lGen s, seqStep_lGen c hphase hfunc hj hm, ?_⟩
  rw [lGen_eq_advance]
  refine ⟨advance_eq_update _ (storeMultiplier s), fun hlast => advance_of_last _ (s := storeMultiplier s) hlast,
    fun hlast => ?_⟩
  obtain ⟨hnext, hstay⟩ := advance_of_not_last (lGenNext s.func) (s := storeMultiplier s) hj hm hlast
  exact ⟨hnext, hstay.trans hphase⟩

end Sys2Proof.Proofs.LTable

/-! The transform as a function: three layers, each undone by the same layer in the other direction (44_transform R167,
R168, R190), and what that says of the byte strings it maps (R189). -/

namespace Sys2Proof.Proofs.Transform

open Sys2Proof.Machine Sys2Proof.Proofs.LTable

/-! ### The three layers -/

/-- Step 2 of the transform with block function `B`: the multiplier goes in before `B`. -/
def enterSlots (B : Block → Block) (P L : List Block) : List Block := List.zipWith (fun p l => B (blockXor p l)) P L

/-- Step 8 of the transform: the multiplier goes in after `B`. -/
def leaveSlots (B : Block → Block) (X L : List Block) : List Block := List.zipWith (fun x l => blockXor (B x) l) X L

/-- The sum of steps 3 and 7: a Block, the tweak and the slots from 1 up. -/
def absorb (T x : Block) (xs : List Block) : Block := xs.foldl blockXor (blockXor x T)

/-- Steps 3 to 7 of the transform. -/
def mixSlots (B : Block → Block) (T : Block) : List Block → List Block
  | [] => []
  | x :: xs =>
    let MP := absorb T x xs
    let ys := maskSlots (blockXor MP (B MP)) xs
    absorb T (B MP) ys :: ys

theorem transformBlocks_eq_layers (c : Cipher) (T : Block) (P : List Block) (d : BitVec 1) :
    transformBlocks c T P d =
      leaveSlots (bc c d) (mixSlots (bc c d) T (enterSlots (bc c d) P (deriveMultipliers c P.length)))
        (deriveMultipliers c P.length) := by
  unfold transformBlocks enterSlots
  dsimp only
  cases List.zipWith (fun p l => bc c d (blockXor p l)) P (deriveMultipliers c P.length) with
  | nil => rfl
  | cons x xs => rfl

@[simp] theorem length_enterSlots (B : Block → Block) (P L : List Block) :
    (enterSlots B P L).length = min P.length L.length := List.length_zipWith

@[simp] theorem length_leaveSlots (B : Block → Block) (X L : List Block) :
    (leaveSlots B X L).length = min X.length L.length := List.length_zipWith

@[simp] theorem length_maskSlots (M : Block) (xs : List Block) : (maskSlots M xs).length = xs.length := by
  induction xs generalizing M with
  | nil => rfl
  | cons x xs ih => rw [maskSlots, List.length_cons, ih, List.length_cons]

@[simp] theorem length_mixSlots (B : Block → Block) (T : Block) (xs : List Block) :
    (mixSlots B T xs).length = xs.length := by
  cases xs with
  | nil => rfl
  | cons x xs => simp [mixSlots]

@[simp] theorem length_transformBlocks (c : Cipher) (T : Block) (P : List Block) (d : BitVec 1) :
    (transformBlocks c T P d).length = P.length := by
  simp [transformBlocks_eq_layers]

/-! ### Each layer is undone by the other direction's -/

theorem blockXor_cancel (A B : Block) : blockXor (blockXor A B) B = A := by
  simp only [blockXor, BitVec.xor_assoc, BitVec.xor_self, BitVec.xor_zero]

theorem blockXor_right_comm (A B C : Block) : blockXor (blockXor A B) C = blockXor (blockXor A C) B := by
  simp only [blockXor, BitVec.xor_assoc, BitVec.xor_comm B C]

/-- What the sum starts from can be added at its end. -/
theorem foldl_blockXor_start (A B : Block) (xs : List Block) :
    xs.foldl blockXor (blockXor A B) = blockXor (xs.foldl blockXor A) B := by
  induction xs generalizing A with
  | nil => rfl
  | cons x xs ih => rw [List.foldl_cons, List.foldl_cons, blockXor_right_comm, ih]

/-- Every slot goes into the sum twice. -/
theorem foldl_blockXor_twice (A : Block) (xs : List Block) : xs.foldl blockXor (xs.foldl blockXor A) = A := by
  induction xs generalizing A with
  | nil => rfl
  | cons x xs ih => rw [List.foldl_cons, List.foldl_cons, foldl_blockXor_start, ih, blockXor_cancel]

/-- A Block is the sum, over the same slots, of its own sum. -/
theorem absorb_absorb (T x : Block) (xs : List Block) : absorb T (absorb T x xs) xs = x := by
  simp only [absorb, foldl_blockXor_start, blockXor_cancel, foldl_blockXor_twice]

theorem maskSlots_maskSlots (M : Block) (xs : List Block) : maskSlots M (maskSlots M xs) = xs := by
  induction xs generalizing M with
  | nil => rfl
  | cons x xs ih => rw [maskSlots, maskSlots, blockXor_cancel, ih]

section
variable {B B' : Block → Block} (hB : Function.LeftInverse B' B)
include hB

theorem enterSlots_leaveSlots {X L : List Block} (h : X.length = L.length) :
    enterSlots B' (leaveSlots B X L) L = X := by
  induction X generalizing L with
  | nil => rfl
  | cons x X ih =>
    cases L with
    | nil => simp at h
    | cons l L =>
      have ih := ih (L := L) (by simpa using h)
      simp only [enterSlots, leaveSlots, List.zipWith_cons_cons] at ih ⊢
      rw [blockXor_cancel, hB, ih]

theorem leaveSlots_enterSlots {P L : List Block} (h : P.length = L.length) :
    leaveSlots B' (enterSlots B P L) L = P := by
  induction P generalizing L with
  | nil => rfl
  | cons p P ih =>
    cases L with
    | nil => simp at h
    | cons l L =>
      have ih := ih (L := L) (by simpa using h)
      simp only [enterSlots, leaveSlots, List.zipWith_cons_cons] at ih ⊢
      rw [hB, blockXor_cancel, ih]

/-- The idea of R190: MP and MC change places on the way back, so the mask is the same and goes out again. -/
theorem mixSlots_mixSlots (T : Block) (xs : List Block) : mixSlots B' T (mixSlots B T xs) = xs := by
  cases xs with
  | nil => rfl
  | cons x xs =>
    have hmask : ∀ MP, blockXor (B MP) MP = blockXor MP (B MP) := fun MP => BitVec.xor_comm _ _
    simp only [mixSlots, absorb_absorb, hB (absorb T x xs), hmask, maskSlots_maskSlots]
end

/-- The whole transform is undone by the transform with the inverse block function: both use the same multipliers. -/
theorem transformBlocks_transformBlocks {c : Cipher} {d d' : BitVec 1}
    (hd : Function.LeftInverse (bc c d') (bc c d)) (T : Block) (P : List Block) :
    transformBlocks c T (transformBlocks c T P d) d' = P := by
  rw [transformBlocks_eq_layers, length_transformBlocks, transformBlocks_eq_layers, enterSlots_leaveSlots hd (by simp),
    mixSlots_mixSlots hd, leaveSlots_enterSlots hd (by simp)]

/-! ### The transform on byte strings -/

@[simp] theorem length_bytesOfBlocks (X : List Block) : (bytesOfBlocks X).length = 16 * X.length := by
  simp [bytesOfBlocks, List.length_flatMap, Nat.mul_comm]

@[simp] theorem length_blocksOfBytes (m : Nat) (bs : List Byte) : (blocksOfBytes m bs).length = m := by
  induction m generalizing bs with
  | zero => rfl
  | succ m ih => rw [blocksOfBytes, List.length_cons, ih]

theorem blocksOfBytes_bytesOfBlocks (X : List Block) : blocksOfBytes X.length (bytesOfBlocks X) = X := by
  induction X with
  | nil => rfl
  | cons x X ih =>
    have htake : (bytesOfBlock x ++ bytesOfBlocks X).take 16 = bytesOfBlock x := List.take_left' (length_bytesOfBlock x)
    have hdrop : (bytesOfBlock x ++ bytesOfBlocks X).drop 16 = bytesOfBlocks X :=
      List.drop_left' (length_bytesOfBlock x)
    rw [bytesOfBlocks, List.flatMap_cons, ← bytesOfBlocks, List.length_cons, blocksOfBytes, htake, hdrop, ih,
      blockOfBytes_bytesOfBlock]

theorem bytesOfBlocks_blocksOfBytes {m : Nat} {bs : List Byte} (h : bs.length = 16 * m) :
    bytesOfBlocks (blocksOfBytes m bs) = bs := by
  induction m generalizing bs with
  | zero => exact (List.eq_nil_of_length_eq_zero h).symm
  | succ m ih =>
    have htake : (bs.take 16).length = 16 := by rw [List.length_take]; omega
    have hdrop : (bs.drop 16).length = 16 * m := by rw [List.length_drop]; omega
    rw [blocksOfBytes, bytesOfBlocks, List.flatMap_cons, ← bytesOfBlocks, ih hdrop, bytesOfBlock_blockOfBytes _ htake,
      List.take_append_drop]

section
variable {c : Cipher} {T : Block} {d : BitVec 1} {m : Nat} (hpos : 1 ≤ m) (hle : m ≤ 128)
include hpos hle

/-- On 1 to 128 whole Blocks no precondition fails. -/
theorem transform_of_length {P : List Byte} (hP : P.length = 16 * m) :
    transform 16 c T 16 P d = .ok (bytesOfBlocks (transformBlocks c T (blocksOfBytes m P) d)) := by
  have hm : P.length / Config.blk = m := by rw [hP, Config.blk]; omega
  rw [transform, hm, if_neg (by decide), if_neg (by decide), if_neg (by rw [hP, Config.blk]; omega),
    if_neg (by rw [Config.maxBlk]; omega)]

/-- A direction that inverts the block function inverts the transform, which keeps the length. -/
theorem exists_transform_inverse {d' : BitVec 1} (hd : Function.LeftInverse (bc c d') (bc c d)) {P : List Byte}
    (hP : P.length = 16 * m) :
    ∃ Q, Q.length = 16 * m ∧ transform 16 c T 16 P d = .ok Q ∧ transform 16 c T 16 Q d' = .ok P := by
  have hQ : (bytesOfBlocks (transformBlocks c T (blocksOfBytes m P) d)).length = 16 * m := by simp
  have hread : blocksOfBytes m (bytesOfBlocks (transformBlocks c T (blocksOfBytes m P) d)) =
      transformBlocks c T (blocksOfBytes m P) d := by
    simpa using blocksOfBytes_bytesOfBlocks (transformBlocks c T (blocksOfBytes m P) d)
  refine ⟨_, hQ, transform_of_length hpos hle hP, ?_⟩
  rw [transform_of_length hpos hle hQ, hread, transformBlocks_transformBlocks hd, bytesOfBlocks_blocksOfBytes hP]
end

/-- Settles O29: under the contract each direction's block function inverts the other's. -/
theorem transformRoundTrip : Obligations.TransformRoundTrip := by
  unfold Obligations.TransformRoundTrip
  intro c T P m hc hpos hle hP
  obtain ⟨Q, -, henc, hdec⟩ :=
    exists_transform_inverse (T := T) hpos hle (d := 0) (d' := 1) hc.decipher_encipher hP
  obtain ⟨R, -, hdec', henc'⟩ :=
    exists_transform_inverse (T := T) hpos hle (d := 1) (d' := 0) hc.encipher_decipher hP
  exact ⟨⟨Q, henc, hdec⟩, R, hdec', henc'⟩

/-- The other direction inverts the block function on both sides (42_cipher_adapter R137). -/
theorem exists_inverse_direction {c : Cipher} (hc : c.Lawful) (d : BitVec 1) :
    ∃ d', Function.LeftInverse (bc c d') (bc c d) ∧ Function.LeftInverse (bc c d) (bc c d') := by
  obtain rfl | rfl : d = 0 ∨ d = 1 := by revert d; decide
  · exact ⟨1, hc.decipher_encipher, hc.encipher_decipher⟩
  · exact ⟨0, hc.encipher_decipher, hc.decipher_encipher⟩

/-- Settles O30: a function with an inverse on both sides is a bijection. -/
theorem transformPermutes : Obligations.TransformPermutes := by
  unfold Obligations.TransformPermutes
  intro c T d m hc hpos hle
  obtain ⟨d', hleft, hright⟩ := exists_inverse_direction hc d
  refine ⟨fun P hP => ?_, fun P P' hP hP' heq => ?_, fun Q hQ => ?_⟩
  · obtain ⟨Q, hQ, hto, -⟩ := exists_transform_inverse (T := T) hpos hle hleft hP
    exact ⟨Q, hto, hQ⟩
  · obtain ⟨Q, -, hto, hback⟩ := exists_transform_inverse (T := T) hpos hle hleft hP
    obtain ⟨Q', -, hto', hback'⟩ := exists_transform_inverse (T := T) hpos hle hleft hP'
    have hQQ' : Q = Q' := Except.ok.inj (hto.symm.trans (heq.trans hto'))
    exact Except.ok.inj (hback.symm.trans (hQQ' ▸ hback'))
  · obtain ⟨P, hP, -, hto⟩ := exists_transform_inverse (T := T) hpos hle hright hQ
    exact ⟨P, hP, hto⟩

/-! ### The transform as equations -/

/-- Slot `j` after step 2. -/
theorem enterSlots_eq_map_range (B : Block → Block) (c : Cipher) (P : List Block) :
    enterSlots B P (deriveMultipliers c P.length) =
      (List.range P.length).map fun j => B (P.getD j 0 ^^^ double^[j + 1] (c.E 0)) := by
  refine List.ext_getElem? fun j => ?_
  by_cases hj : j < P.length
  · rw [enterSlots, List.getElem?_zipWith, List.getElem?_eq_getElem hj, getElem?_deriveMultipliers c hj]
    simp [hj, blockXor]
  · rw [List.getElem?_eq_none (by simpa using hj), List.getElem?_eq_none (by simpa using hj)]

/-- Slot `j` after step 8. -/
theorem getElem?_leaveSlots (B : Block → Block) (c : Cipher) {X : List Block} {m j : Nat} {x : Block} (hj : j < m)
    (hx : X[j]? = some x) :
    (leaveSlots B X (deriveMultipliers c m))[j]? = some (B x ^^^ double^[j + 1] (c.E 0)) := by
  rw [leaveSlots, List.getElem?_zipWith, hx, getElem?_deriveMultipliers c hj]
  rfl

/-- Step 3 or 7 on numbered slots, as one sum. -/
theorem absorb_map_range (T : Block) (f : Nat → Block) (n : Nat) :
    absorb T (f 0) ((List.range n).map fun j => f (j + 1)) =
      (List.range (n + 1)).foldl (fun x j => x ^^^ f j) T := by
  have hstart : blockXor (f 0) T = T ^^^ f 0 := BitVec.xor_comm _ _
  rw [absorb, List.range_succ_eq_map, List.foldl_cons, List.foldl_map, List.foldl_map, hstart]
  rfl

/-- Slot `j` after step 6: its mask is doubled once per slot (R169). -/
theorem maskSlots_map_range (M : Block) (f : Nat → Block) (n : Nat) :
    maskSlots M ((List.range n).map f) = (List.range n).map fun j => f j ^^^ double^[j + 1] M := by
  induction n generalizing M f with
  | zero => rfl
  | succ n ih =>
    rw [List.range_succ_eq_map, List.map_cons, List.map_map, maskSlots, ih, List.map_cons, List.map_map]
    rfl

/-- Steps 3 to 7 on numbered slots. -/
theorem mixSlots_map_range (B : Block → Block) (T : Block) (f : Nat → Block) (n : Nat) :
    let MP := (List.range (n + 1)).foldl (fun x j => x ^^^ f j) T
    let CCC := fun j => f j ^^^ double^[j] (MP ^^^ B MP)
    mixSlots B T ((List.range (n + 1)).map f) =
      (List.range n).foldl (fun x j => x ^^^ CCC (j + 1)) (B MP ^^^ T) :: (List.range n).map fun j => CCC (j + 1) := by
  intro MP CCC
  have hMP : absorb T (f 0) ((List.range n).map fun j => f (j + 1)) = MP := absorb_map_range T f n
  have hslots : (List.range (n + 1)).map f = f 0 :: (List.range n).map fun j => f (j + 1) := by
    rw [List.range_succ_eq_map, List.map_cons, List.map_map]
    rfl
  simp only [hslots, mixSlots, hMP, maskSlots_map_range]
  rw [absorb, List.foldl_map]
  rfl

/-- Settles O27: step 2, steps 3 to 7 and step 8, slot by slot. -/
theorem transformEquations : Obligations.TransformEquations := by
  unfold Obligations.TransformEquations
  intro c T d P hpos
  obtain ⟨n, hn⟩ : ∃ n, P.length = n + 1 := ⟨P.length - 1, by omega⟩
  have hlayers := transformBlocks_eq_layers c T P d
  rw [enterSlots_eq_map_range, hn, mixSlots_map_range] at hlayers
  refine ⟨length_transformBlocks c T P d, ?_, fun j hj hlt => ?_⟩
  · rw [hlayers, hn]
    exact getElem?_leaveSlots (bc c d) c n.succ_pos rfl
  · rw [hlayers, hn]
    refine getElem?_leaveSlots (bc c d) c (hn ▸ hlt) ?_
    obtain ⟨j, rfl⟩ := Nat.exists_eq_add_of_le' hj
    rw [List.getElem?_cons_succ, List.getElem?_map, List.getElem?_range (by omega)]
    rfl

/-- Settles O28: with one Block the sums of steps 3 and 7 are single XORs and step 6 has no slot to mask. -/
theorem singleBlockTransform : Obligations.SingleBlockTransform := by
  unfold Obligations.SingleBlockTransform
  intro c T P d
  rw [transformBlocks_eq_layers]
  rfl

end Sys2Proof.Proofs.Transform

/-! The micro-steps of the transform: one equation for each phase, and one lemma for what every loop phase of the transform
does in one execution (44_transform R172 to R182). -/

namespace Sys2Proof.Proofs.TransformPhases

open Sys2Proof.Machine Sys2Proof.Proofs.LTable

/-! ### The phases that are executed once -/

section
variable (c : Cipher) {s : State}

theorem seqStep_mpInit (h : s.phase = .mpInit) : seqStep c s = .next (mpInit s) := by simp only [seqStep, h]
theorem seqStep_mcEnc (h : s.phase = .mcEnc) : seqStep c s = .next (mcEnc c s) := by simp only [seqStep, h]
theorem seqStep_mMask (h : s.phase = .mMask) : seqStep c s = .next (mMask s) := by simp only [seqStep, h]
theorem seqStep_cccInit (h : s.phase = .cccInit) : seqStep c s = .next (cccInit s) := by simp only [seqStep, h]
theorem seqStep_cccSt (h : s.phase = .cccSt) : seqStep c s = .next (cccSt s) := by simp only [seqStep, h]
end

/-- Settles O35: one rule for each phase. -/
theorem transformSinglePhaseRules : Obligations.TransformSinglePhaseRules := by
  unfold Obligations.TransformSinglePhaseRules
  exact fun c s => ⟨seqStep_mpInit c, seqStep_mcEnc c, seqStep_mMask c, seqStep_cccInit c, seqStep_cccSt c⟩

/-! ### The loop phases -/

/-- One execution of a loop phase: what the rule does before its end is `body`, which moves neither J, MCNT nor PHASE, and
the end of the rule then moves J and PHASE only. -/
theorem exists_seqStep_of_loop {c : Cipher} {rule : State → State} {next : Phase} {s body : State}
    (hstep : seqStep c s = loopStep rule s) (hrule : rule s = advance next body)
    (hbody : body.j = s.j ∧ body.mcnt = s.mcnt ∧ body.phase = s.phase)
    (hj : s.j.toNat < s.mcnt.toNat) (hm : s.mcnt.toNat ≤ 128) :
    ∃ t, seqStep c s = .next t ∧
      ((s.j.toNat + 1 = s.mcnt.toNat → t.j = 0 ∧ t.phase = next) ∧
        (s.j.toNat + 1 ≠ s.mcnt.toNat → t.j.toNat = s.j.toNat + 1 ∧ t.phase = s.phase)) ∧
      t = { body with j := t.j, phase := t.phase } := by
  obtain ⟨hbj, hbm, hbp⟩ := hbody
  refine ⟨advance next body, by rw [hstep, loopStep_of_lt rule hj hm, hrule], ⟨fun hlast => ?_, fun hlast => ?_⟩,
    advance_eq_update next body⟩
  · rw [← hbj, ← hbm] at hlast
    exact advance_of_last next hlast
  · rw [← hbj, ← hbm] at hj hlast
    rw [← hbm] at hm
    rw [← hbj, ← hbp]
    exact advance_of_not_last next hj hm hlast

section
variable (c : Cipher) {s : State}

theorem seqStep_p1 (h : s.phase = .p1) : seqStep c s = loopStep (p1 c) s := by simp only [seqStep, h]
theorem seqStep_mpAcc (h : s.phase = .mpAcc) : seqStep c s = loopStep mpAcc s := by simp only [seqStep, h]
theorem seqStep_p2 (h : s.phase = .p2) : seqStep c s = loopStep p2 s := by simp only [seqStep, h]
theorem seqStep_cccAcc (h : s.phase = .cccAcc) : seqStep c s = loopStep cccAcc s := by simp only [seqStep, h]
theorem seqStep_p3 (h : s.phase = .p3) : seqStep c s = loopStep (p3 c) s := by simp only [seqStep, h]
end

/-- Settles O36: each rule is an end of a loop rule after an update of other registers. -/
theorem transformLoopPhaseRules : Obligations.TransformLoopPhaseRules := by
  unfold Obligations.TransformLoopPhaseRules
  intro c s hj hm
  refine ⟨fun h => ?_, fun h => ?_, fun h => ?_, fun h => ?_, fun h => ?_⟩
  · simpa only [bc, blockXor] using exists_seqStep_of_loop (seqStep_p1 c h) rfl ⟨rfl, rfl, rfl⟩ hj hm
  · simpa only [bc, blockXor] using exists_seqStep_of_loop (seqStep_mpAcc c h) rfl ⟨rfl, rfl, rfl⟩ hj hm
  · simpa only [bc, blockXor] using exists_seqStep_of_loop (seqStep_p2 c h) rfl ⟨rfl, rfl, rfl⟩ hj hm
  · simpa only [bc, blockXor] using exists_seqStep_of_loop (seqStep_cccAcc c h) rfl ⟨rfl, rfl, rfl⟩ hj hm
  · simpa only [bc, blockXor] using exists_seqStep_of_loop (seqStep_p3 c h) rfl ⟨rfl, rfl, rfl⟩ hj hm

end Sys2Proof.Proofs.TransformPhases

/-! VALIDATE and FINISH (45_handle R203 to R205): which check of VALIDATE is the first to fail, what the step in
VALIDATE writes when one fails and when all pass, and from there the outcome of a whole EME command. -/

namespace Sys2Proof.Proofs.Validation

open Sys2Proof.Machine Sys2Proof.Proofs.UnitCommands Sys2Proof.Proofs.CipherCommands

/-! ### The first check that fails -/

section
variable {s : State} (hcbs : s.cbs = 16)
include hcbs

theorem validationError_of_tlen_ne (htweak : usesTweak s.func = true) (htlen : s.tlen ≠ 16) :
    validationError s = some .invalidTweakLength := by
  have htlen' : s.tlen.toNat ≠ 16 := fun h => htlen (BitVec.eq_of_toNat_eq h)
  rw [validationError, if_neg (by simp [hcbs, Config.blk]), if_pos (by simp [htweak, htlen', Config.twk])]

variable (htlen : usesTweak s.func = true → s.tlen = 16) (hlength : usesLength s.func = true)
include htlen hlength

theorem validationError_of_mlen_unaligned (hmlen : s.mlen.toNat % 16 ≠ 0 ∨ s.mlen = 0) :
    validationError s = some .invalidMessageLength := by
  have hmlen' : s.mlen.toNat = 0 ∨ s.mlen.toNat % 16 ≠ 0 := hmlen.symm.imp_left fun h => by rw [h]; rfl
  rw [validationError, if_neg (by simp [hcbs, Config.blk]), if_neg (by simp +contextual [htlen, Config.twk]),
    if_pos (by simpa [hlength, Config.blk] using hmlen')]

theorem validationError_of_mlen_gt (hmod : s.mlen.toNat % 16 = 0) (hmax : 2048 < s.mlen.toNat) :
    validationError s = some .blockCountOutOfRange := by
  have hzero : s.mlen.toNat ≠ 0 := by omega
  have hcount : 128 < blockCount s := by simp only [blockCount, Config.blk]; omega
  rw [validationError, if_neg (by simp [hcbs, Config.blk]), if_neg (by simp +contextual [htlen, Config.twk]),
    if_neg (by simp [hmod, hzero, Config.blk]), if_pos (by simp [hlength, hcount, Config.maxBlk])]

omit hlength in
theorem validationError_of_mlen_valid (hmod : s.mlen.toNat % 16 = 0) (hmin : 16 ≤ s.mlen.toNat)
    (hmax : s.mlen.toNat ≤ 2048) : validationError s = none :=
  validationError_eq_none (fun _ => hcbs) (fun htweak => congrArg BitVec.toNat (htlen htweak))
    fun _ => ⟨hmod, hmin, hmax⟩
end

/-! ### The step in VALIDATE -/

/-- DBL, BXOR, CIPH: VALIDATE writes PHASE only. -/
theorem dispatch_of_not_usesLength {s : State} (h : usesLength s.func = false) :
    dispatch s = { s with phase := dispatchPhase s.func } := by
  rw [dispatch, h, if_neg Bool.false_ne_true]

theorem dispatchPhase_of_usesLength : ∀ func, usesLength func = true → dispatchPhase func = .lSeed := by decide

/-- LGEN and EME: VALIDATE writes MCNT and goes to L_SEED. -/
theorem dispatch_of_usesLength {s : State} (h : usesLength s.func = true) :
    dispatch s = { s with mcnt := BitVec.ofNat 8 (blockCount s), phase := .lSeed } := by
  rw [dispatch, h, if_pos rfl, dispatchPhase_of_usesLength s.func h]

theorem funcDispatches_of_usesLength : ∀ func, usesLength func = true → funcDispatches func = true := by decide

theorem funcDispatches_of_mem : ∀ func ∈ ([1, 2, 3, 4, 5] : List (BitVec 3)), funcDispatches func = true := by
  decide

/-- Of the checks of VALIDATE, the unit commands make at most that of CBS. -/
theorem unit_func_uses : ∀ func ∈ ([1, 2, 3] : List (BitVec 3)),
    funcDispatches func = true ∧ usesTweak func = false ∧ usesLength func = false := by decide

section
variable (c : Cipher) {s : State} (hphase : s.phase = .validate)
include hphase

theorem seqStep_validate (hfunc : funcDispatches s.func = true) : seqStep c s = .next (validate s) := by
  simp only [seqStep, hphase, hfunc, if_true]

/-- VALIDATE of a unit command, which passes it when CBS is 16 where the cipher is used. -/
theorem seqStep_validate_unit (hfunc : s.func ∈ ([1, 2, 3] : List (BitVec 3)))
    (hcbs : usesCipher s.func = true → s.cbs = 16) :
    seqStep c s = .next { s with phase := dispatchPhase s.func } := by
  obtain ⟨hdispatch, htweak, hlength⟩ := unit_func_uses s.func hfunc
  have hvalid : validationError s = none := validationError_eq_none hcbs (by simp [htweak]) (by simp [hlength])
  rw [seqStep_validate c hphase hdispatch, validate_of_none hvalid, dispatch_of_not_usesLength hlength]
end

/-! ### The step in FINISH -/

/-- 16 MCNT fits RLEN for every value of the 8-bit MCNT. -/
theorem toNat_rlen_finish (s : State) : (finish s).rlen.toNat = 16 * s.mcnt.toNat := by
  have hmcnt := s.mcnt.isLt
  have h16 : (16 : BitVec 16).toNat = 16 := rfl
  rw [finish_rlen, BitVec.toNat_mul, BitVec.zeroExtend, BitVec.toNat_setWidth, h16]
  omega

/-- Settles O37: each clause is `fail`, `dispatch` or `finish` written out. -/
theorem validateAndFinishPhaseRules : Obligations.ValidateAndFinishPhaseRules := by
  unfold Obligations.ValidateAndFinishPhaseRules
  intro c s
  refine ⟨fun e hphase hfunc herror => ?_, fun hphase hfunc => ?_, fun hphase hfunc => ?_,
    fun hphase hfunc hcbs => ?_, fun hphase hfunc hcbs htlen hmod hmin hmax => ?_, fun hphase => ?_⟩
  · rw [seqStep_validate c hphase (funcDispatches_of_mem s.func hfunc), validate_of_some herror, fail]
  · rw [seqStep_validate_unit c hphase (by simp [hfunc]) (by simp [hfunc, usesCipher]), hfunc]
    rfl
  · rw [seqStep_validate_unit c hphase (by simp [hfunc]) (by simp [hfunc, usesCipher]), hfunc]
    rfl
  · rw [seqStep_validate_unit c hphase (by simp [hfunc]) fun _ => hcbs, hfunc]
    rfl
  · have hlength : usesLength s.func = true := by simpa [usesLength] using hfunc
    have hvalid := validationError_of_mlen_valid hcbs (by simpa [usesTweak] using htlen) hmod hmin hmax
    rw [seqStep_validate c hphase (funcDispatches_of_usesLength s.func hlength), validate_of_none hvalid,
      dispatch_of_usesLength hlength, blockCount, Config.blk]
  · exact ⟨finish s, seqStep_finish c hphase, toNat_rlen_finish s, rfl⟩

/-! ### A whole EME command -/

/-- A command whose validation fails is issued and ends in `fail` (60_exceptions R222). -/
theorem exec_of_error {i : Instr} {s : State} {e : Err} (hb : s.busy = false)
    (herror : validationError (issue i s) = some e) : exec i s = .next (fail e (issue i s)) := by
  rw [exec_eq_effect, effect_eq_command, command_of_error hb herror]

@[simp] theorem tableBody_mcnt (c : Cipher) (s : State) : (tableBody c s).mcnt = s.mcnt := by
  simp [tableBody, iterate_keeps (·.mcnt) lGen_mcnt]

@[simp] theorem emeBody_mcnt (c : Cipher) (s : State) : (emeBody c s).mcnt = s.mcnt := by
  simp [emeBody, iterate_keeps (·.mcnt) (p1_mcnt c), iterate_keeps (·.mcnt) mpAcc_mcnt,
    iterate_keeps (·.mcnt) p2_mcnt, iterate_keeps (·.mcnt) cccAcc_mcnt, iterate_keeps (·.mcnt) (p3_mcnt c)]

section
variable {i : Instr} (heme : i = .emeE ∨ i = .emeD) {s : State}
include heme

theorem func_of_eme : i.fields.func = 5 := by
  obtain rfl | rfl := heme <;> rfl

theorem exec_eme_of_valid (hb : s.busy = false) (hvalid : validationError (issue i s) = none) :
    exec i s = .next (finish (emeBody Config.cipher (dispatch (issue i s)))) := by
  rw [← command_of_valid hb hvalid]
  obtain rfl | rfl := heme <;> rfl
end

/-- Settles O17: an EME command makes all four checks of VALIDATE, and no phase after VALIDATE writes ERR or MCNT. -/
theorem emeErrorPrecedence : Obligations.EmeErrorPrecedence := by
  unfold Obligations.EmeErrorPrecedence
  intro i s heme hb
  have hfunc : (issue i s).func = 5 := (issue_func i s).trans (func_of_eme heme)
  have hcipher : usesCipher (issue i s).func = true := by rw [hfunc]; rfl
  have htweak : usesTweak (issue i s).func = true := by rw [hfunc]; rfl
  have hlength : usesLength (issue i s).func = true := by rw [hfunc]; rfl
  rw [← issue_cbs i s, ← issue_tlen i s, ← issue_mlen i s]
  refine ⟨fun hcbs => ?_, fun hcbs htlen => ?_, fun hcbs htlen hmlen => ?_, fun hcbs htlen hmod hmax => ?_,
    fun hcbs htlen hmod hmin hmax => ?_⟩
  · exact exec_of_error hb (validationError_of_cbs_ne hcipher hcbs)
  · exact exec_of_error hb (validationError_of_tlen_ne hcbs htweak htlen)
  · exact exec_of_error hb (validationError_of_mlen_unaligned hcbs (fun _ => htlen) hlength hmlen)
  · exact exec_of_error hb (validationError_of_mlen_gt hcbs (fun _ => htlen) hlength hmod hmax)
  · have hvalid := validationError_of_mlen_valid hcbs (fun _ => htlen) hmod hmin hmax
    refine ⟨_, exec_eme_of_valid heme hb hvalid, by simp, ?_, fun c => ?_⟩
    · rw [finish_mcnt, emeBody_mcnt, dispatch_of_usesLength hlength, BitVec.toNat_ofNat, blockCount, Config.blk]
      omega
    · rw [seqStep_issue hvalid, finish_mcnt, emeBody_mcnt, dispatch_of_usesLength hlength]

end Sys2Proof.Proofs.Validation

/-! What a failed command has changed (60_exceptions R222): `fail` after the issue of the command, as one update of the
state in which it was issued. -/

namespace Sys2Proof.Proofs.Failure

open Sys2Proof.Machine Sys2Proof.Proofs.CipherCommands Sys2Proof.Proofs.Validation

/-- The state in which the command `i`, issued in `s`, ends when its validation fails with `e`. -/
def commandFailed (i : Instr) (e : Err) (s : State) : State :=
  { s with
    busy := false, done := true, err := e, rlen := 0, func := i.fields.func, dir := i.fields.dir, phase := .idle }

/-- Of the fields that issue writes, `fail` writes all but FUNC and DIR again. -/
theorem fail_issue (i : Instr) (e : Err) (s : State) : fail e (issue i s) = commandFailed i e s := by
  apply State.ext <;> simp [commandFailed]

/-- Settles O16: the command whole and the single step in VALIDATE both end in `fail` right after the issue. -/
theorem failedCommandChangesOnlyStatus : Obligations.FailedCommandChangesOnlyStatus := by
  unfold Obligations.FailedCommandChangesOnlyStatus
  intro i s e hb herror
  have hexec := exec_of_error hb herror
  have hstep := seqRun_failed_command herror
  rw [fail_issue] at hexec
  simp only [fail_issue] at hstep
  exact ⟨hexec, hstep⟩

end Sys2Proof.Proofs.Failure

/-! R251: the machine right after a reset event. -/

namespace Sys2Proof.Proofs.Reset

open Sys2Proof.Machine

theorem step_of_reset {s : State} {d : Draw} {rest : List Event} (h : s.schedule = .reset d :: rest) :
    step s = .next (resetWith d { s with schedule := rest }) := by
  simp only [step, stepOver, h, applyEvent]

/-- The capability check at construction (45_handle R200): no error exactly when the block size is 16 bytes. -/
theorem resetWith_err_of_cbs (d : Draw) (s : State) :
    (resetWith d s).err = if s.cbs = 16 then .none else .unsupportedBlockSize := by
  by_cases hcbs : s.cbs = 16 <;> simp [hcbs]

/-- CFAIL after a reset (45_handle R200), as the proposition it decides. -/
theorem resetWith_cfail_eq_decide (d : Draw) (s : State) : (resetWith d s).cfail = decide (s.cbs ≠ 16) := by
  by_cases hcbs : s.cbs = 16 <;> simp [hcbs]

/-- Settles O54: the step is `resetWith` on the rest of the schedule; of its fields only CFAIL and ERR depend on CBS. -/
theorem resetSetsEveryRegister : Obligations.ResetSetsEveryRegister := by
  unfold Obligations.ResetSetsEveryRegister
  intro s d rest hs
  rw [step_of_reset hs]
  congr 1
  apply State.ext
  case cfail => exact resetWith_cfail_eq_decide d _
  case err => exact resetWith_err_of_cbs d _
  all_goals rfl

end Sys2Proof.Proofs.Reset

/-! One micro-step, said once: which rule a phase runs, when the step answers, and what no rule writes (10_state section 2,
R40, R41). Then the successor relation of R186 and the steps that never reach the cipher. -/

namespace Sys2Proof.Proofs.SequencerStep

open Sys2Proof.Machine Sys2Proof.Proofs.CipherCommands

/-! ### The rule of a phase and its precondition -/

/-- The rule that a micro-step runs in a phase (10_state R41). -/
def phaseRule (c : Cipher) : Phase → State → State
  | .idle => id
  | .validate => validate
  | .uDbl => uDbl
  | .uXor => uXor
  | .uCiph => uCiph c
  | .lSeed => lSeed c
  | .lGen => lGen
  | .p1 => p1 c
  | .mpInit => mpInit
  | .mpAcc => mpAcc
  | .mcEnc => mcEnc c
  | .mMask => mMask
  | .p2 => p2
  | .cccInit => cccInit
  | .cccAcc => cccAcc
  | .cccSt => cccSt
  | .p3 => p3 c
  | .finish => finish

/-- The precondition of the rule of a state's phase, where it has one (44_transform section 3, 43_ltable R154,
45_handle R203). -/
def phaseReady (s : State) : Prop :=
  match s.phase with
  | .validate => funcDispatches s.func = true
  | .lGen => usesLength s.func = true ∧ loopReady s = true
  | .p1 | .mpAcc | .p2 | .cccAcc | .p3 => loopReady s = true
  | _ => True

theorem loopStep_eq_next_iff {rule : State → State} {s t : State} :
    loopStep rule s = .next t ↔ loopReady s = true ∧ rule s = t := by
  unfold loopStep
  split <;> simp_all

/-- Everything a micro-step can do: run its phase's rule where the rule's precondition holds. -/
theorem seqStep_eq_next_iff {c : Cipher} {s t : State} :
    seqStep c s = .next t ↔ phaseReady s ∧ phaseRule c s.phase s = t := by
  cases h : s.phase with
  | validate =>
    simp only [seqStep, h, phaseReady, phaseRule]
    split <;> simp_all
  | lGen =>
    simp only [seqStep, h, phaseReady, phaseRule]
    split <;> simp_all [loopStep_eq_next_iff]
  | _ => simp [seqStep, h, phaseReady, phaseRule, loopStep_eq_next_iff]

theorem validate_cases (s : State) :
    (validationError s = none ∧ validate s = dispatch s) ∨
    ∃ e, validationError s = some e ∧ validate s = fail e s := by
  cases h : validationError s with
  | none => exact .inl ⟨rfl, validate_of_none h⟩
  | some e => exact .inr ⟨e, rfl, validate_of_some h⟩

/-! ### What no micro-step writes -/

/-- The input registers, the latched command and the model's own fields are the same. -/
structure SameInputs (s t : State) : Prop where
  ibuf : t.ibuf = s.ibuf
  tweak : t.tweak = s.tweak
  tlen : t.tlen = s.tlen
  mlen : t.mlen = s.mlen
  cfail : t.cfail = s.cfail
  func : t.func = s.func
  dir : t.dir = s.dir
  cbs : t.cbs = s.cbs
  schedule : t.schedule = s.schedule
  reads : t.reads = s.reads

theorem SameInputs.refl (s : State) : SameInputs s s := ⟨rfl, rfl, rfl, rfl, rfl, rfl, rfl, rfl, rfl, rfl⟩

theorem SameInputs.trans {s t u : State} (h : SameInputs s t) (h' : SameInputs t u) : SameInputs s u where
  ibuf := h'.ibuf.trans h.ibuf
  tweak := h'.tweak.trans h.tweak
  tlen := h'.tlen.trans h.tlen
  mlen := h'.mlen.trans h.mlen
  cfail := h'.cfail.trans h.cfail
  func := h'.func.trans h.func
  dir := h'.dir.trans h.dir
  cbs := h'.cbs.trans h.cbs
  schedule := h'.schedule.trans h.schedule
  reads := h'.reads.trans h.reads

theorem sameInputs_validate (s : State) : SameInputs s (validate s) := by
  obtain ⟨-, h⟩ | ⟨e, -, h⟩ := validate_cases s
  · rw [h]; constructor <;> simp
  · rw [h]; constructor <;> simp

theorem sameInputs_phaseRule (c : Cipher) (p : Phase) (s : State) : SameInputs s (phaseRule c p s) := by
  cases p with
  | idle => exact .refl s
  | validate => exact sameInputs_validate s
  | _ => constructor <;> simp [phaseRule]

theorem sameInputs_of_seqStep {c : Cipher} {s t : State} (h : seqStep c s = .next t) : SameInputs s t := by
  obtain ⟨-, rfl⟩ := seqStep_eq_next_iff.mp h
  exact sameInputs_phaseRule c s.phase s

/-- A run that answers answers at its first step. -/
theorem exists_of_seqRun_succ {c : Cipher} {n : Nat} {s t : State} (h : seqRun c (n + 1) s = .next t) :
    ∃ u, seqStep c s = .next u ∧ seqRun c n u = .next t := by
  cases hs : seqStep c s with
  | next u => exact ⟨u, rfl, seqRun_succ hs n ▸ h⟩
  | fault r => simp [seqRun, hs] at h
  | refused r => simp [seqRun, hs] at h

theorem sameInputs_of_seqRun {c : Cipher} {n : Nat} {s t : State} (h : seqRun c n s = .next t) : SameInputs s t := by
  induction n generalizing s with
  | zero => cases h; exact .refl _
  | succ n ih =>
    obtain ⟨u, hs, hrest⟩ := exists_of_seqRun_succ h
    exact (sameInputs_of_seqStep hs).trans (ih hrest)

/-- Settles O43, rule by rule. -/
theorem sequencerKeepsInputs : Obligations.SequencerKeepsInputs := by
  unfold Obligations.SequencerKeepsInputs
  intro c s t h
  have hsame := sameInputs_of_seqStep h
  exact ⟨hsame.ibuf, hsame.tweak, hsame.tlen, hsame.mlen, hsame.cfail, hsame.func, hsame.dir, hsame.cbs,
    hsame.schedule, hsame.reads⟩

/-! ### The steps from a state of the invariant -/

theorem phaseReady_of_inv {s : State} (h : Inv s) : phaseReady s := by
  have hseq := h.sequencer
  have hm := h.mcnt_le
  cases hp : s.phase <;> simp_all [sequencerOk, phaseReady, loopReady, Config.maxBlk]

/-- From a state of the invariant the rule of the phase runs (44_transform section 3). -/
theorem seqStep_of_inv {s : State} (h : Inv s) (c : Cipher) : seqStep c s = .next (phaseRule c s.phase s) :=
  seqStep_eq_next_iff.mpr ⟨phaseReady_of_inv h, rfl⟩

/-- In a loop phase J is below MCNT. -/
theorem j_lt_mcnt_of_inv {s : State} (h : Inv s)
    (hp : s.phase = .lGen ∨ s.phase = .p1 ∨ s.phase = .mpAcc ∨ s.phase = .p2 ∨ s.phase = .cccAcc ∨ s.phase = .p3) :
    s.j.toNat < s.mcnt.toNat := by
  have hseq := h.sequencer
  obtain hp | hp | hp | hp | hp | hp := hp <;> simp [sequencerOk, hp] at hseq <;> omega

/-- From L_SEED on a command has at least one Block. -/
theorem mcnt_pos_of_inv {s : State} (h : Inv s)
    (hp : s.phase = .mpInit ∨ s.phase = .mMask ∨ s.phase = .cccInit) : 1 ≤ s.mcnt.toNat := by
  have hseq := h.sequencer
  obtain hp | hp | hp := hp <;> simp [sequencerOk, hp] at hseq <;> omega

theorem ite_last_eq_ite_more {α : Type} {j m : Nat} (h : j < m) (a b : α) :
    (if j + 1 = m then a else b) = if j + 1 < m then b else a := by
  by_cases hl : j + 1 = m
  · rw [if_pos hl, if_neg (by omega)]
  · rw [if_neg hl, if_pos (by omega)]

theorem ite_more_eq_ite_one {α : Type} {m : Nat} (h : 1 ≤ m) (a b : α) :
    (if m > 1 then a else b) = if m = 1 then b else a := by
  by_cases hl : m = 1
  · rw [if_neg (by omega), if_pos hl]
  · rw [if_pos (by omega), if_neg hl]

/-- Settles O38: the PHASE that each rule writes, with `J < MCNT` in the loops. -/
theorem successorRelation : Obligations.SuccessorRelation := by
  unfold Obligations.SuccessorRelation
  intro c s t hI h
  obtain ⟨-, rfl⟩ := seqStep_eq_next_iff.mp h
  have hj := j_lt_mcnt_of_inv hI
  have hm := mcnt_pos_of_inv hI
  cases hp : s.phase with
  | validate =>
    obtain ⟨hv, he⟩ | ⟨e, hv, he⟩ := validate_cases s <;> simp [phaseRule, he, hv, dispatchPhase]
  | lGen | p1 | mpAcc | p2 | cccAcc | p3 =>
    simp [phaseRule, hp, ite_last_eq_ite_more (hj (by simp [hp])), lGenNext]
  | mpInit | mMask | cccInit =>
    simp only [phaseRule, mpInit_phase, mMask_phase, cccInit_phase, ite_more_eq_ite_one (hm (by simp [hp]))]
  | _ => simp [phaseRule, hp]

/-- A command whose validation fails ends in `fail` right after its issue (60_exceptions R222). -/
theorem effect_of_error {i : Instr} {s : State} {e : Err} (hb : s.busy = false)
    (h : validationError (issue i s) = some e) (c : Cipher) : effect c i s = fail e (issue i s) := by
  rw [effect_eq_command, command_of_error hb h]

/-- Without the block size that the cipher needs, a command that would use it ends in VALIDATE (45_handle R203). -/
theorem effect_of_cbs_ne {i : Instr} {s : State} (hcipher : usesCipher i.fields.func = true) (hcbs : s.cbs ≠ 16)
    (hb : s.busy = false) (c : Cipher) : effect c i s = fail .invalidBlockSize (issue i s) := by
  refine effect_of_error hb (validationError_of_cbs_ne ?_ ?_) c
  · rwa [issue_func]
  · rwa [issue_cbs]

/-- Settles O44: the commands that use the cipher fail in VALIDATE, and the phases that use it are not reached. -/
theorem wrongBlockSizeNeverCallsCipher : Obligations.WrongBlockSizeNeverCallsCipher := by
  unfold Obligations.WrongBlockSizeNeverCallsCipher
  intro c c' s hcbs
  constructor
  · intro i
    cases hb : s.busy with
    | true => rw [effect_of_busy hb, effect_of_busy hb]
    | false =>
      cases i with
      | dbl | bxor => rfl
      | _ => rw [effect_of_cbs_ne rfl hcbs hb, effect_of_cbs_ne rfl hcbs hb]
  · intro hI
    rw [seqStep_of_inv hI, seqStep_of_inv hI]
    have hseq := hI.sequencer
    cases hp : s.phase <;> simp_all [sequencerOk, phaseRule]

end Sys2Proof.Proofs.SequencerStep

/-! Whole commands as runs of micro-steps: the phases that a command executes, in their order, and from them its effect
(44_transform R183), its number of steps and its use of the units (70_reset_and_hazards R272), and what it leaves alone. -/

namespace Sys2Proof.Proofs.SequencerRuns

open Sys2Proof.Machine Sys2Proof.Proofs.Statelessness Sys2Proof.Proofs.UnitCommands Sys2Proof.Proofs.CipherCommands
  Sys2Proof.Proofs.LTable Sys2Proof.Proofs.TransformPhases Sys2Proof.Proofs.Validation Sys2Proof.Proofs.SequencerStep

/-! ### Runs with the phases they execute -/

/-- The micro-steps from `s` execute the phases `ps` and end in `t`. -/
inductive Trace (c : Cipher) : State → List Phase → State → Prop where
  | nil (s : State) : Trace c s [] s
  | cons {s t u : State} {p : Phase} {ps : List Phase} (hp : s.phase = p) (hstep : seqStep c s = .next t)
      (hrest : Trace c t ps u) : Trace c s (p :: ps) u

section
variable {c : Cipher} {s t u : State} {ps qs : List Phase}

theorem Trace.single {p : Phase} (hp : s.phase = p) (hstep : seqStep c s = .next t) : Trace c s [p] t :=
  .cons hp hstep (.nil t)

theorem Trace.append (h : Trace c s ps t) (h' : Trace c t qs u) : Trace c s (ps ++ qs) u := by
  induction h with
  | nil s => exact h'
  | cons hp hstep _ ih => exact .cons hp hstep (ih h')

theorem Trace.seqRun (h : Trace c s ps t) : seqRun c ps.length s = .next t := by
  induction h with
  | nil s => rfl
  | cons _ hstep _ ih => rw [List.length_cons, seqRun_succ hstep, ih]

theorem Trace.countRun (h : Trace c s ps t) (f : Phase → Nat) : countRun f c ps.length s = (ps.map f).sum := by
  induction h with
  | nil s => rfl
  | cons hp hstep _ ih => rw [List.length_cons, countRun_succ f hstep, ih, List.map_cons, List.sum_cons, hp]
end

/-! ### BUSY -/

theorem busy_of_seqStep {c : Cipher} {s t : State} (h : seqStep c s = .next t) (ht : t.busy = true) :
    s.busy = true := by
  obtain ⟨-, rfl⟩ := seqStep_eq_next_iff.mp h
  cases hp : s.phase with
  | idle => simpa [phaseRule, hp] using ht
  | validate =>
    obtain ⟨-, he⟩ | ⟨e, -, he⟩ := validate_cases s
    · simpa [phaseRule, hp, he] using ht
    · simp [phaseRule, hp, he] at ht
  | finish => simp [phaseRule, hp] at ht
  | _ => simpa [phaseRule, hp] using ht

/-- A run that ends busy was busy all along: no rule sets BUSY. -/
theorem busy_of_seqRun {c : Cipher} {k : Nat} {s t : State} (h : seqRun c k s = .next t) (ht : t.busy = true) :
    ∀ n ≤ k, ∃ u, seqRun c n s = .next u ∧ u.busy = true := by
  induction k generalizing s with
  | zero =>
    intro n hn
    obtain rfl : n = 0 := by omega
    exact ⟨t, h, ht⟩
  | succ k ih =>
    obtain ⟨u, hs, hrest⟩ := exists_of_seqRun_succ h
    intro n hn
    cases n with
    | zero =>
      obtain ⟨v, hv, hbusy⟩ := ih hrest 0 (Nat.zero_le k)
      cases hv
      exact ⟨s, rfl, busy_of_seqStep hs hbusy⟩
    | succ n => rw [seqRun_succ hs]; exact ih hrest n (by omega)

/-! ### Loop phases -/

/-- A state of a loop of phase `p`, followed by phase `q`, over `m` Blocks, at Block `k`; past the last it is in `q`. -/
structure InLoop (p q : Phase) (m k : Nat) (s : State) : Prop where
  at_block : AtBlock m k s
  phase : s.phase = if k < m then p else q

/-- A loop from Block `k` to the last executes its phase once per Block and leaves for the next phase. `P` is what else
the rule's step needs and keeps. -/
theorem InLoop.trace {c : Cipher} {f : State → State} {p q : Phase} {P : State → Prop} (hf : LoopRule f)
    (hstep : ∀ s, P s → s.phase = p → s.j.toNat < s.mcnt.toNat → s.mcnt.toNat ≤ 128 → seqStep c s = .next (f s))
    (hP : ∀ s, P s → P (f s))
    (hphase : ∀ s, P s → (f s).phase = if s.j.toNat + 1 = s.mcnt.toNat then q else s.phase)
    {m n k : Nat} (hm : m ≤ 128) (hkn : k + n = m) {s : State} (hs : P s) (h : InLoop p q m k s) :
    Trace c s (List.replicate n p) (f^[n] s) ∧ P (f^[n] s) ∧ (f^[n] s).phase = q ∧ AtBlock m m (f^[n] s) := by
  induction n generalizing k s with
  | zero =>
    obtain rfl : k = m := hkn
    exact ⟨.nil s, hs, by simpa using h.phase, h.at_block⟩
  | succ n ih =>
    have hk : k < m := by omega
    have hp : s.phase = p := by rw [h.phase, if_pos hk]
    have hj := h.at_block.j hk
    have hmcnt := h.at_block.mcnt
    have hnext : InLoop p q m (k + 1) (f s) := by
      refine ⟨h.at_block.next hf hm hk, ?_⟩
      rw [hphase s hs, hj, hmcnt, hp]
      by_cases hlast : k + 1 = m
      · rw [if_pos hlast, if_neg (by omega)]
      · rw [if_neg hlast, if_pos (by omega)]
    obtain ⟨htrace, hrest⟩ := ih (k := k + 1) (by omega) (hP s hs) hnext
    exact ⟨.cons hp (hstep s hs hp (by omega) (by omega)) htrace, hrest⟩

/-! ### The phases of each command -/

/-- The phases of an L-table (43_ltable R155). -/
def tablePhases (m : Nat) : List Phase := .lSeed :: List.replicate m .lGen

/-- The phases of a transform (44_transform R183). -/
def emePhases (m : Nat) : List Phase :=
  tablePhases m ++ List.replicate m Phase.p1 ++ (Phase.mpInit :: List.replicate (m - 1) Phase.mpAcc) ++
    (Phase.mcEnc :: Phase.mMask :: List.replicate (m - 1) Phase.p2) ++
    (Phase.cccInit :: List.replicate (m - 1) Phase.cccAcc) ++ (Phase.cccSt :: List.replicate m Phase.p3)

/-- The phases of a command between VALIDATE and FINISH. -/
def bodyPhases (i : Instr) (m : Nat) : List Phase :=
  match i with
  | .dbl => [.uDbl]
  | .bxor => [.uXor]
  | .ciphE | .ciphD => [.uCiph]
  | .lgen => tablePhases m
  | .emeE | .emeD => emePhases m

section
variable {c : Cipher} {s : State} {m : Nat} (hm : m ≤ 128) (hpos : 0 < m)
include hm hpos

/-- A loop over all Blocks, which needs nothing but its phase. -/
theorem trace_all {f : State → State} {p q : Phase} (hf : LoopRule f)
    (hstep : ∀ s, s.phase = p → seqStep c s = loopStep f s)
    (hphase : ∀ s, (f s).phase = if s.j.toNat + 1 = s.mcnt.toNat then q else s.phase)
    (hs : AtBlock m 0 s) (hp : s.phase = p) :
    Trace c s (List.replicate m p) (f^[m] s) ∧ (f^[m] s).phase = q ∧ AtBlock m 0 (f^[m] s) := by
  have hin : InLoop p q m 0 s := ⟨hs, by rw [if_pos hpos, hp]⟩
  obtain ⟨htrace, -, hq, -⟩ := InLoop.trace (c := c) (P := fun _ => True) hf
    (fun s _ hp hj hmc => by rw [hstep s hp, loopStep_of_lt f hj hmc]) (fun _ _ => trivial) (fun s _ => hphase s) hm
    (Nat.zero_add m) trivial hin
  exact ⟨htrace, hq, hs.iterate_all hf hm hpos⟩

/-- A phase `g` that sets J to 1, and the loop over the Blocks from 1 up after it, which with one Block is skipped. -/
theorem trace_tail {g f : State → State} {p₀ p q : Phase} (hg : ∀ s, s.phase = p₀ → seqStep c s = .next (g s))
    (hmcnt : ∀ s, (g s).mcnt = s.mcnt) (hj : ∀ s, (g s).j = 1)
    (hnext : ∀ s, (g s).phase = if s.mcnt.toNat > 1 then p else q) (hf : LoopRule f)
    (hstep : ∀ s, s.phase = p → seqStep c s = loopStep f s)
    (hphase : ∀ s, (f s).phase = if s.j.toNat + 1 = s.mcnt.toNat then q else s.phase)
    (hmc : s.mcnt.toNat = m) (hp : s.phase = p₀) :
    Trace c s (p₀ :: List.replicate (m - 1) p) (f^[m - 1] (g s)) ∧ (f^[m - 1] (g s)).phase = q ∧
      (f^[m - 1] (g s)).mcnt.toNat = m := by
  have hin : InLoop p q m 1 (g s) :=
    ⟨⟨by rw [hmcnt, hmc], fun _ => by rw [hj]; rfl⟩, by rw [hnext, hmc]⟩
  obtain ⟨htrace, -, hq, hend⟩ := InLoop.trace (c := c) (P := fun _ => True) hf
    (fun s _ hp hj hmc => by rw [hstep s hp, loopStep_of_lt f hj hmc]) (fun _ _ => trivial) (fun s _ => hphase s) hm
    (show 1 + (m - 1) = m by omega) trivial hin
  exact ⟨.cons hp (hg s hp) htrace, hq, hend.mcnt⟩

theorem trace_tableBody (hmc : s.mcnt.toNat = m) (hp : s.phase = .lSeed) (hfunc : s.func = 4 ∨ s.func = 5) :
    Trace c s (tablePhases m) (tableBody c s) ∧ (tableBody c s).phase = lGenNext s.func ∧
      AtBlock m 0 (tableBody c s) := by
  have hat : AtBlock m 0 (lSeed c s) := ⟨hmc, fun _ => rfl⟩
  have hin : InLoop .lGen (lGenNext s.func) m 0 (lSeed c s) := ⟨hat, by rw [if_pos hpos]; rfl⟩
  obtain ⟨htrace, -, hq, -⟩ := InLoop.trace (c := c) (s := lSeed c s) (P := fun t => t.func = s.func) loopRule_lGen
    (fun t ht hp hj hmc => seqStep_lGen c hp (ht ▸ hfunc) hj hmc) (fun t ht => (lGen_func t).trans ht)
    (fun t ht => by rw [lGen_phase, ht]) hm (Nat.zero_add m) rfl hin
  rw [tableBody, hmc]
  exact ⟨.cons hp (seqStep_lSeed c hp) htrace, hq, hat.iterate_all loopRule_lGen hm hpos⟩

theorem trace_emeBody (hmc : s.mcnt.toNat = m) (hp : s.phase = .lSeed) (hfunc : s.func = 5) :
    Trace c s (emePhases m) (emeBody c s) ∧ (emeBody c s).phase = .finish := by
  obtain ⟨htable, hp1, hat⟩ := trace_tableBody (c := c) hm hpos hmc hp (.inr hfunc)
  rw [hfunc] at hp1
  obtain ⟨hpass1, hmpInit, hat⟩ :=
    trace_all (c := c) hm hpos (loopRule_p1 c) (fun _ => seqStep_p1 c) (p1_phase c) hat hp1
  obtain ⟨hmix, hmcEnc, hmc1⟩ := trace_tail (c := c) hm hpos (fun _ => seqStep_mpInit c) mpInit_mcnt mpInit_j
    mpInit_phase loopRule_mpAcc (fun _ => seqStep_mpAcc c) mpAcc_phase hat.mcnt hmpInit
  obtain ⟨hmask, hcccInit, hmc2⟩ := trace_tail (c := c) hm hpos (fun _ => seqStep_mMask c) mMask_mcnt mMask_j
    mMask_phase loopRule_p2 (fun _ => seqStep_p2 c) p2_phase ((congrArg _ (mcEnc_mcnt c _)).trans hmc1)
    (mcEnc_phase c _)
  obtain ⟨hsum, hcccSt, hmc3⟩ := trace_tail (c := c) hm hpos (fun _ => seqStep_cccInit c) cccInit_mcnt cccInit_j
    cccInit_phase loopRule_cccAcc (fun _ => seqStep_cccAcc c) cccAcc_phase hmc2 hcccInit
  obtain ⟨hpass3, hfinish, -⟩ := trace_all (c := c) hm hpos (loopRule_p3 c) (fun _ => seqStep_p3 c) (p3_phase c)
    ⟨(congrArg _ (cccSt_mcnt _)).trans hmc3, fun _ => rfl⟩ (cccSt_phase _)
  have hbody := ((((htable.append hpass1).append hmix).append (.cons hmcEnc (seqStep_mcEnc c hmcEnc) hmask)).append
    hsum).append (.cons hcccSt (seqStep_cccSt c hcccSt) hpass3)
  simp only [emeBody, hmc]
  exact ⟨hbody, hfinish⟩
end

/-! ### Whole commands -/

@[simp] theorem tableBody_busy (c : Cipher) (s : State) : (tableBody c s).busy = s.busy := by
  simp [tableBody, iterate_keeps (·.busy) lGen_busy]

@[simp] theorem emeBody_busy (c : Cipher) (s : State) : (emeBody c s).busy = s.busy := by
  simp [emeBody, iterate_keeps (·.busy) (p1_busy c), iterate_keeps (·.busy) mpAcc_busy, iterate_keeps (·.busy) p2_busy,
    iterate_keeps (·.busy) cccAcc_busy, iterate_keeps (·.busy) (p3_busy c)]

section
variable {i : Instr} {s : State} (hvalid : validationError (issue i s) = none)
include hvalid

/-- After VALIDATE a command executes its phases, BUSY all the while, and FINISH then ends it in its effect. -/
theorem exists_trace_of_dispatch (c : Cipher) :
    ∃ u, Trace c (dispatch (issue i s)) (bodyPhases i (blockCount s)) u ∧ u.phase = .finish ∧ u.busy = true ∧
      (s.busy = false → effect c i s = finish u) := by
  cases i with
  | dbl =>
    exact ⟨uDbl _, .single rfl (seqStep_uDbl c rfl), rfl, by simp, fun hb => command_of_valid hb hvalid _⟩
  | bxor =>
    exact ⟨uXor _, .single rfl (seqStep_uXor c rfl), rfl, by simp, fun hb => command_of_valid hb hvalid _⟩
  | ciphE | ciphD =>
    exact ⟨uCiph c _, .single rfl (seqStep_uCiph c rfl), rfl, by simp, fun hb => command_of_valid hb hvalid _⟩
  | lgen =>
    obtain ⟨hm, hpos, hle⟩ := dispatch_issue_mcnt rfl hvalid
    obtain ⟨htrace, hphase, -⟩ := trace_tableBody (c := c) hle hpos hm rfl (.inl rfl)
    exact ⟨tableBody c _, htrace, hphase, by simp, fun hb => command_of_valid hb hvalid _⟩
  | emeE | emeD =>
    obtain ⟨hm, hpos, hle⟩ := dispatch_issue_mcnt rfl hvalid
    obtain ⟨htrace, hphase⟩ := trace_emeBody (c := c) hle hpos hm rfl rfl
    exact ⟨emeBody c _, htrace, hphase, by simp, fun hb => command_of_valid hb hvalid _⟩

/-- The same run from issue. -/
theorem exists_trace_of_valid (c : Cipher) :
    ∃ u, Trace c (issue i s) (.validate :: bodyPhases i (blockCount s)) u ∧ u.phase = .finish ∧ u.busy = true ∧
      (s.busy = false → effect c i s = finish u) := by
  obtain ⟨u, htrace, hrest⟩ := exists_trace_of_dispatch hvalid c
  exact ⟨u, .cons (issue_phase i s) (seqStep_issue hvalid) htrace, hrest⟩
end

/-- The phases that a command issued in `s` executes: those of R272, or VALIDATE alone when it finds an error (R222). -/
def commandPhases (i : Instr) (s : State) : List Phase :=
  match validationError (issue i s) with
  | some _ => [.validate]
  | none => .validate :: bodyPhases i (blockCount s) ++ [.finish]

theorem commandPhases_of_valid {i : Instr} {s : State} (h : validationError (issue i s) = none) :
    commandPhases i s = .validate :: bodyPhases i (blockCount s) ++ [.finish] := by simp only [commandPhases, h]

theorem commandPhases_of_error {i : Instr} {s : State} {e : Err} (h : validationError (issue i s) = some e) :
    commandPhases i s = [.validate] := by simp only [commandPhases, h]

/-- The step counts of R272 are the lengths of the lists of phases. -/
theorem stepCount_eq_length (i : Instr) (s : State) : stepCount i s = (commandPhases i s).length := by
  cases hv : validationError (issue i s) with
  | some e => simp only [stepCount, commandPhases, hv, List.length_singleton]
  | none =>
    simp only [stepCount, commandPhases, hv]
    cases i with
    | lgen => simp [bodyPhases, tablePhases]
    | emeE | emeD =>
      obtain ⟨-, hpos, -⟩ := dispatch_issue_mcnt rfl hv
      simp [bodyPhases, emePhases, tablePhases]
      omega
    | _ => rfl

section
variable (c : Cipher) (i : Instr) {s : State} (hb : s.busy = false)
include hb

/-- R183: the sequencer ends in the command's effect. -/
theorem trace_command : Trace c (issue i s) (commandPhases i s) (effect c i s) := by
  cases hv : validationError (issue i s) with
  | some e =>
    rw [commandPhases_of_error hv, effect_of_error hb hv]
    have hfunc : funcDispatches (issue i s).func = true := by cases i <;> rfl
    have hstep := seqStep_validate c (issue_phase i s) hfunc
    rw [validate_of_some hv] at hstep
    exact .single (issue_phase i s) hstep
  | none =>
    obtain ⟨u, htrace, hphase, -, heffect⟩ := exists_trace_of_valid hv c
    rw [commandPhases_of_valid hv, heffect hb]
    exact htrace.append (.single hphase (seqStep_finish c hphase))

theorem seqRun_command : seqRun c (stepCount i s) (issue i s) = .next (effect c i s) := by
  rw [stepCount_eq_length]
  exact (trace_command c i hb).seqRun

theorem countRun_command (f : Phase → Nat) :
    countRun f c (stepCount i s) (issue i s) = ((commandPhases i s).map f).sum := by
  rw [stepCount_eq_length]
  exact (trace_command c i hb).countRun f
end

theorem busy_before_stepCount (c : Cipher) (i : Instr) (s : State) :
    ∀ n < stepCount i s, ∃ t, seqRun c n (issue i s) = .next t ∧ t.busy = true := by
  intro n hn
  rw [stepCount_eq_length] at hn
  cases hv : validationError (issue i s) with
  | some e =>
    rw [commandPhases_of_error hv, List.length_singleton] at hn
    obtain rfl : n = 0 := by omega
    exact ⟨_, rfl, issue_busy i s⟩
  | none =>
    obtain ⟨u, htrace, -, hbusy, -⟩ := exists_trace_of_valid hv c
    rw [commandPhases_of_valid hv, List.length_append, List.length_singleton] at hn
    exact busy_of_seqRun htrace.seqRun hbusy n (Nat.le_of_lt_succ hn)

/-- Settles O39, by the phases that each command executes. -/
theorem sequencerRefinesCommand : Obligations.SequencerRefinesCommand := by
  unfold Obligations.SequencerRefinesCommand
  exact fun c i s hb => ⟨seqRun_command c i hb, busy_before_stepCount c i s⟩

/-- Settles O41: the length and the sums over the list of phases of each command. -/
theorem operationCounts : Obligations.OperationCounts := by
  unfold Obligations.OperationCounts
  intro c i s hb
  simp only [countRun_command c i hb]
  rw [stepCount_eq_length]
  refine ⟨fun e he => by rw [commandPhases_of_error he]; rfl, fun hvalid => ?_⟩
  have hcount : s.mlen.toNat / 16 = blockCount s := rfl
  rw [commandPhases_of_valid hvalid, hcount]
  cases i with
  | lgen => simp [bodyPhases, tablePhases, cipherCalls, doublings, blockXors]
  | emeE | emeD =>
    obtain ⟨-, hpos, -⟩ := dispatch_issue_mcnt rfl hvalid
    simp [bodyPhases, emePhases, tablePhases, cipherCalls, doublings, blockXors]
    omega
  | _ => rfl

/-! ### Fields that no command writes -/

/-- The fields that no command writes, whether it completes, fails or is dropped. -/
structure SameEnvironment (s t : State) : Prop where
  ibuf : t.ibuf = s.ibuf
  tweak : t.tweak = s.tweak
  tlen : t.tlen = s.tlen
  mlen : t.mlen = s.mlen
  cfail : t.cfail = s.cfail
  cbs : t.cbs = s.cbs
  schedule : t.schedule = s.schedule
  reads : t.reads = s.reads

theorem sameEnvironment_effect (c : Cipher) (i : Instr) (s : State) : SameEnvironment s (effect c i s) := by
  cases hb : s.busy with
  | true => rw [effect_of_busy hb]; constructor <;> rfl
  | false =>
    have h := sameInputs_of_seqRun (seqRun_command c i hb)
    exact
      { ibuf := by rw [h.ibuf, issue_ibuf]
        tweak := by rw [h.tweak, issue_tweak]
        tlen := by rw [h.tlen, issue_tlen]
        mlen := by rw [h.mlen, issue_mlen]
        cfail := by rw [h.cfail, issue_cfail]
        cbs := by rw [h.cbs, issue_cbs]
        schedule := by rw [h.schedule, issue_schedule]
        reads := by rw [h.reads, issue_reads] }

/-! ### Host transactions -/

/-- With nothing scheduled the machine's steps are the sequencer's (log entry 2). -/
theorem run_eq_seqRun {n : Nat} {s t : State} (hs : s.schedule = []) (h : seqRun Config.cipher n s = .next t) :
    Host.Core.run Sys2Proof.core n s = .next t := by
  induction n generalizing s with
  | zero => exact h
  | succ n ih =>
    obtain ⟨u, hu, hrest⟩ := exists_of_seqRun_succ h
    have hstep : step s = .next u := by rw [step, stepOver, hs, hu]
    rw [run_succ hstep]
    exact ih ((sameInputs_of_seqStep hu).schedule.trans hs) hrest

theorem stepCount_congr {i : Instr} {s t : State} (hcbs : s.cbs = t.cbs) (htlen : s.tlen = t.tlen)
    (hmlen : s.mlen = t.mlen) : stepCount i s = stepCount i t := by
  have hv : validationError (issue i s) = validationError (issue i t) :=
    validationError_congr (by simp) (by simpa using hcbs) (by simpa using htlen) (by simpa using hmlen)
  simp only [stepCount, hv, blockCount, hmlen]

/-- Settles O40: the write is an issue, and from there the schedule is empty. -/
theorem transactionRunEqualsExec : Obligations.TransactionRunEqualsExec := by
  unfold Obligations.TransactionRunEqualsExec
  intro i s hb
  let idle : State := { s with schedule := [] }
  have hstep : step { s with schedule := [.write 0x1011 (encode i)] } = .next (issue i idle) := by
    rw [HostPort.step_of_write rfl]
    exact congrArg _ ((HostPort.hostWrite_cmd (s := idle) hb _).trans (CommandByte.issueByte_encode i idle))
  have hcount : stepCount i s = stepCount i idle := stepCount_congr rfl rfl rfl
  rw [Nat.add_comm, run_succ hstep, hcount, exec_eq_effect]
  exact run_eq_seqRun (issue_schedule i idle) (seqRun_command Config.cipher i (s := idle) hb)

end Sys2Proof.Proofs.SequencerRuns

/-! The invariant: a micro-step keeps it, rule by rule, and so a whole command does, which is a run of micro-steps; host
transactions and resets keep it too. With it every run is safe and every command ends (70_reset_and_hazards R269). -/

namespace Sys2Proof.Proofs.Invariant

open Sys2Proof.Machine Sys2Proof.Proofs.SequencerStep Sys2Proof.Proofs.SequencerRuns

/-! ### Reset -/

theorem inv_resetWith (d : Draw) (s : State) : Inv (resetWith d s) where
  ibuf_wf := Memory.wf_ofCells d.ibuf
  obuf_wf := Memory.wf_ofCells d.obuf
  lt_wf := Memory.wf_ofCells d.lt
  busy_iff := by simp
  busy_clear := by simp
  cfail_iff := by simp
  err_done := by simp +contextual
  err_raised := by by_cases hcbs : s.cbs = 16 <;> simp [hcbs]
  rlen_range := by simp
  mcnt_le := by simp
  j_le := by simp
  dir_ok := by simp
  sequencer := by simp [sequencerOk]

/-- Settles O56: the state after reset is that of a reset event with the all-zero draw. -/
theorem resetEstablishesInvariant : Obligations.ResetEstablishesInvariant := by
  unfold Obligations.ResetEstablishesInvariant
  refine ⟨?_, inv_resetWith⟩
  rw [← reset_eq_resetWith State.reset rfl rfl rfl]
  exact inv_resetWith Draw.zero State.reset

/-! ### Steps outside the sequencer -/

theorem phase_of_not_busy {s : State} (h : Inv s) (hb : s.busy = false) : s.phase = .idle := by
  by_contra hp
  simp [h.busy_iff.mpr hp] at hb

theorem j_of_not_busy {s : State} (h : Inv s) (hb : s.busy = false) : s.j = 0 := by
  have hseq := h.sequencer
  simpa [sequencerOk, phase_of_not_busy h hb] using hseq

section
variable {s : State} (h : Inv s)
include h

/-- The schedule and the record of reads are not in the invariant. -/
theorem inv_of_eq_machine {t : State} (ht : t = { s with schedule := t.schedule, reads := t.reads }) : Inv t := by
  rw [ht]
  exact { h with }

variable (hb : s.busy = false)
include hb

theorem inv_issue (i : Instr) : Inv (issue i s) where
  ibuf_wf := by simpa using h.ibuf_wf
  obuf_wf := by simpa using h.obuf_wf
  lt_wf := by simpa using h.lt_wf
  busy_iff := by simp
  busy_clear := by simp
  cfail_iff := by simpa using h.cfail_iff
  err_done := by simp
  err_raised := by simp
  rlen_range := by simp
  mcnt_le := by simpa using h.mcnt_le
  j_le := by simpa using h.j_le
  dir_ok := by cases i <;> simp [Instr.fields]
  sequencer := by
    have hj := j_of_not_busy h hb
    cases i <;> simp [sequencerOk, Instr.fields, funcDispatches, hj]

theorem inv_issueIllegal : Inv (issueIllegal s) :=
  { h with
    busy_clear := by simp [hb]
    err_done := by simp
    err_raised := by simp
    rlen_range := by simp }

/-- While not BUSY the sequencer's registers fit IDLE, whatever MLEN is. -/
theorem inv_of_mlen (w : BitVec 16) : Inv { s with mlen := w } :=
  { h with
    sequencer := by simp [sequencerOk, phase_of_not_busy h hb, j_of_not_busy h hb] }
end

theorem inv_issueByte {s : State} (h : Inv s) (hb : s.busy = false) (v : Byte) : Inv (issueByte v s) := by
  obtain ⟨i, -, hi⟩ | ⟨e, -, hi⟩ := issueByte_cases v s
  · rw [hi]; exact inv_issue h hb i
  · rw [hi]; exact inv_issueIllegal h hb

theorem inv_hostWrite {s : State} (h : Inv s) (a : Addr) (v : Byte) : Inv (hostWrite a v s) := by
  obtain ⟨-, he⟩ | ⟨-, ha, he⟩ | ⟨-, -, -, he⟩ | ⟨-, -, he⟩ | ⟨hb, -, he⟩ | ⟨hb, -, he⟩ | ⟨hb, -, he⟩ | ⟨-, -, he⟩ :=
    hostWrite_cases a v s <;> rw [he]
  · exact h
  · exact { h with ibuf_wf := Memory.wf_write h.ibuf_wf v ha }
  · exact { h with }
  · exact { h with }
  · exact inv_issueByte h hb v
  · exact inv_of_mlen h hb _
  · exact inv_of_mlen h hb _
  · exact h

/-! ### Micro-steps -/

theorem inv_fail {s : State} (h : Inv s) (hj : s.j = 0) {e : Err} (he : validationError s = some e) :
    Inv (fail e s) :=
  { h with
    busy_iff := by simp
    busy_clear := by simp
    err_done := by simp
    err_raised := by
      obtain rfl | rfl | rfl | rfl := validationError_some he <;> simp
    rlen_range := by simp
    sequencer := by simp [sequencerOk, hj] }

theorem inv_finish {s : State} (h : Inv s) (hp : s.phase = .finish) : Inv (finish s) := by
  have hj : s.j = 0 := by
    have hseq := h.sequencer
    simp [sequencerOk, hp] at hseq
    exact hseq.2
  have hrlen := Validation.toNat_rlen_finish s
  have hm := h.mcnt_le
  have hb : s.busy = true := h.busy_iff.mpr (by simp [hp])
  obtain ⟨-, herr, -⟩ := h.busy_clear hb
  exact
    { h with
      busy_iff := by simp
      busy_clear := by simp
      err_done := by simp
      err_raised := by simp [herr]
      rlen_range := by omega
      sequencer := by simp [sequencerOk, hj] }

/-- A step between two phases of a running command: what is left to show when it writes no flag. -/
theorem inv_of_running {s t : State} (h : Inv s) (hin : SameInputs s t) (hs : s.phase ≠ .idle) (ht : t.phase ≠ .idle)
    (hflags : t.busy = s.busy ∧ t.done = s.done ∧ t.err = s.err ∧ t.rlen = s.rlen)
    (hobuf : Memory.wf t.obuf = true) (hlt : Memory.wf t.lt = true) (hm : t.mcnt.toNat ≤ 128)
    (hj : t.j.toNat ≤ 127) (hseq : sequencerOk t = true) : Inv t := by
  obtain ⟨hbusy, hdone, herr, hrlen⟩ := hflags
  have hb : t.busy = true := hbusy.trans (h.busy_iff.mpr hs)
  exact
    { ibuf_wf := by rw [hin.ibuf]; exact h.ibuf_wf
      obuf_wf := hobuf
      lt_wf := hlt
      busy_iff := by simp [hb, ht]
      busy_clear := by rw [hbusy, hdone, herr, hrlen]; exact h.busy_clear
      cfail_iff := by rw [hin.cfail, hin.cbs]; exact h.cfail_iff
      err_done := by simp [hb]
      err_raised := by rw [herr]; exact h.err_raised
      rlen_range := by rw [hrlen]; exact h.rlen_range
      mcnt_le := hm
      j_le := hj
      dir_ok := by rw [hin.dir, hin.func]; exact h.dir_ok
      sequencer := hseq }

theorem dispatchPhase_ne_idle : ∀ func, dispatchPhase func ≠ .idle := by decide

theorem func_of_funcDispatches : ∀ func : BitVec 3, funcDispatches func = true →
    func = 1 ∨ func = 2 ∨ func = 3 ∨ func = 4 ∨ func = 5 := by decide

/-- VALIDATE passes with MCNT in range, and the phase it goes to fits FUNC (45_handle R203). -/
theorem inv_dispatch {s : State} (h : Inv s) (hp : s.phase = .validate) (hv : validationError s = none) :
    Inv (dispatch s) := by
  obtain ⟨hcbs, -, hlength⟩ := validationError_none hv
  have hseq := h.sequencer
  simp only [sequencerOk, hp, Bool.and_eq_true, beq_iff_eq] at hseq
  obtain ⟨hfunc, hj⟩ := hseq
  have hsame : SameInputs s (dispatch s) := by rw [← validate_of_none hv]; exact sameInputs_validate s
  have hmcnt : (dispatch s).mcnt.toNat ≤ 128 ∧
      (usesLength s.func = true → s.mlen.toNat = 16 * (dispatch s).mcnt.toNat ∧ 1 ≤ (dispatch s).mcnt.toNat) := by
    rw [dispatch_mcnt]
    split
    · rename_i hl
      obtain ⟨-, hge, hle, hmlen⟩ := hlength hl
      have hcount : (BitVec.ofNat 8 (blockCount s)).toNat = blockCount s := by
        rw [BitVec.toNat_ofNat, Nat.mod_eq_of_lt (by omega)]
      rw [hcount]
      exact ⟨hle, fun _ => ⟨hmlen, hge⟩⟩
    · rename_i hl
      exact ⟨h.mcnt_le, fun hl' => absurd hl' hl⟩
  refine inv_of_running h hsame (by simp [hp]) (dispatchPhase_ne_idle s.func) ⟨rfl, rfl, rfl, rfl⟩ h.obuf_wf h.lt_wf
    hmcnt.1 h.j_le ?_
  obtain hf | hf | hf | hf | hf := func_of_funcDispatches s.func hfunc
  · simp [sequencerOk, dispatchPhase, hf, hj]
  · simp [sequencerOk, dispatchPhase, hf, hj]
  · simp [sequencerOk, dispatchPhase, hf, hj, hcbs (by rw [hf]; rfl)]
  all_goals
    have hl : usesLength s.func = true := by rw [hf]; rfl
    obtain ⟨hmlen, hpos⟩ := hmcnt.2 hl
    have hphase : (dispatch s).phase = .lSeed := by rw [dispatch_phase, hf]; rfl
    simp only [sequencerOk, hphase, dispatch_func, dispatch_cbs, dispatch_mlen, hl, hcbs (by rw [hf]; rfl), hmlen,
      hpos, BEq.rfl, Bool.and_self, decide_true]

section
variable (c : Cipher) {p : Phase} {s : State}

theorem flags_phaseRule (hp : p ≠ .validate) (hp' : p ≠ .finish) :
    (phaseRule c p s).busy = s.busy ∧ (phaseRule c p s).done = s.done ∧ (phaseRule c p s).err = s.err ∧
      (phaseRule c p s).rlen = s.rlen := by
  cases p <;> simp_all [phaseRule]

/-- Only VALIDATE and FINISH end a command. -/
theorem phase_phaseRule_ne_idle (hp : s.phase ≠ .idle) (hp' : s.phase ≠ .validate) (hp'' : s.phase ≠ .finish) :
    (phaseRule c s.phase s).phase ≠ .idle := by
  cases hph : s.phase with
  | lGen =>
    simp only [phaseRule, lGen_phase, lGenNext]
    split_ifs <;> simp [hph]
  | p1 | mpAcc | p2 | cccAcc | p3 =>
    simp only [phaseRule, p1_phase, mpAcc_phase, p2_phase, cccAcc_phase, p3_phase]
    split_ifs <;> simp [hph]
  | mpInit | mMask | cccInit =>
    simp only [phaseRule, mpInit_phase, mMask_phase, cccInit_phase]
    split_ifs <;> simp
  | _ => simp_all [phaseRule]

variable (h : Inv s)
include h

theorem wf_obuf_phaseRule : Memory.wf (phaseRule c p s).obuf = true := by
  have hwf := h.obuf_wf
  have hj : s.j.toNat < Config.maxBlk := Nat.lt_succ_of_le h.j_le
  have hzero : 0 < Config.maxBlk := by decide
  cases p with
  | validate => obtain ⟨-, he⟩ | ⟨e, -, he⟩ := validate_cases s <;> simpa [phaseRule, he] using hwf
  | lGen =>
    simp only [phaseRule, lGen_obuf]
    split
    · exact Memory.wf_setBlock hwf _ hj
    · exact hwf
  | uDbl | uXor | uCiph | cccSt => simpa [phaseRule] using Memory.wf_setBlock hwf _ hzero
  | p1 | p2 | p3 => simpa [phaseRule] using Memory.wf_setBlock hwf _ hj
  | _ => simpa [phaseRule] using hwf

theorem wf_lt_phaseRule : Memory.wf (phaseRule c p s).lt = true := by
  have hwf := h.lt_wf
  cases p with
  | validate => obtain ⟨-, he⟩ | ⟨e, -, he⟩ := validate_cases s <;> simpa [phaseRule, he] using hwf
  | lGen => simpa [phaseRule] using Memory.wf_setBlock hwf _ (Nat.lt_succ_of_le h.j_le)
  | _ => simpa [phaseRule] using hwf

theorem mcnt_phaseRule_le (hp : p ≠ .validate) : (phaseRule c p s).mcnt.toNat ≤ 128 := by
  have hm := h.mcnt_le
  cases p <;> simp_all [phaseRule]

theorem j_phaseRule_le : (phaseRule c s.phase s).j.toNat ≤ 127 := by
  have hj := h.j_le
  have hm := h.mcnt_le
  have hloop := j_lt_mcnt_of_inv h
  cases hp : s.phase with
  | validate => obtain ⟨-, he⟩ | ⟨e, -, he⟩ := validate_cases s <;> simpa [phaseRule, he] using hj
  | lGen | p1 | mpAcc | p2 | cccAcc | p3 =>
    have hlt := hloop (by simp [hp])
    simp only [phaseRule, lGen_j, p1_j, mpAcc_j, p2_j, cccAcc_j, p3_j]
    split
    · decide
    · rw [toNat_succ_of_lt (m := s.mcnt.toNat) (by omega) hm]
      omega
  | _ => simp [phaseRule, hj]
end

/-- The registers fit the next phase, when neither VALIDATE nor FINISH wrote it. A loop phase either ends, with J back at
0, or stays with J + 1 below MCNT; the phase before a loop from Block 1 skips it when there is one Block. -/
theorem sequencerOk_phaseRule {s : State} (h : Inv s) (c : Cipher) (hp : s.phase ≠ .validate)
    (hp' : s.phase ≠ .finish) : sequencerOk (phaseRule c s.phase s) = true := by
  have hseq := h.sequencer
  have hm := h.mcnt_le
  cases hph : s.phase with
  | idle => exact hseq
  | validate => exact absurd hph hp
  | finish => exact absurd hph hp'
  | uDbl | uXor | uCiph | mcEnc => simp_all [sequencerOk, phaseRule, usesLength]
  | lSeed | cccSt =>
    simp_all [sequencerOk, phaseRule, usesLength]
    omega
  | lGen =>
    simp [sequencerOk, hph, usesLength] at hseq
    by_cases hlast : s.j.toNat + 1 = s.mcnt.toNat
    · by_cases hf : s.func = 4
      · simp_all [sequencerOk, phaseRule, lGenNext]
      · simp_all [sequencerOk, phaseRule, lGenNext, usesLength]
        omega
    · simp_all [sequencerOk, phaseRule, usesLength]
      omega
  | p1 | mpAcc | p2 | cccAcc | p3 =>
    simp [sequencerOk, hph, usesLength] at hseq
    by_cases hlast : s.j.toNat + 1 = s.mcnt.toNat
    · simp_all [sequencerOk, phaseRule, usesLength]
    · simp_all [sequencerOk, phaseRule, usesLength]
      omega
  | mpInit | mMask | cccInit =>
    simp [sequencerOk, hph, usesLength] at hseq
    by_cases hone : 1 < s.mcnt.toNat
    · simp_all [sequencerOk, phaseRule, usesLength]
    · have hone' : s.mcnt.toNat = 1 := by omega
      simp_all [sequencerOk, phaseRule, usesLength]

theorem inv_phaseRule {s : State} (h : Inv s) (c : Cipher) : Inv (phaseRule c s.phase s) := by
  cases hp : s.phase with
  | idle => exact h
  | finish => exact inv_finish h hp
  | validate =>
    have hj : s.j = 0 := by
      have hseq := h.sequencer
      simp only [sequencerOk, hp, Bool.and_eq_true, beq_iff_eq] at hseq
      exact hseq.2
    obtain ⟨hv, he⟩ | ⟨e, hv, he⟩ := validate_cases s
    · rw [phaseRule, he]; exact inv_dispatch h hp hv
    · rw [phaseRule, he]; exact inv_fail h hj hv
  | _ =>
    have hidle : s.phase ≠ .idle := by simp [hp]
    have hvalidate : s.phase ≠ .validate := by simp [hp]
    have hfinish : s.phase ≠ .finish := by simp [hp]
    rw [← hp]
    exact inv_of_running h (sameInputs_phaseRule c _ s) hidle (phase_phaseRule_ne_idle c hidle hvalidate hfinish)
      (flags_phaseRule c hvalidate hfinish) (wf_obuf_phaseRule c h) (wf_lt_phaseRule c h)
      (mcnt_phaseRule_le c h hvalidate) (j_phaseRule_le c h) (sequencerOk_phaseRule h c hvalidate hfinish)

theorem inv_of_seqStep {c : Cipher} {s t : State} (h : Inv s) (hs : seqStep c s = .next t) : Inv t := by
  obtain ⟨-, rfl⟩ := seqStep_eq_next_iff.mp hs
  exact inv_phaseRule h c

theorem inv_of_seqRun {c : Cipher} {n : Nat} {s t : State} (h : Inv s) (hs : seqRun c n s = .next t) : Inv t := by
  induction n generalizing s with
  | zero => cases hs; exact h
  | succ n ih =>
    rw [seqRun_succ (seqStep_of_inv h c)] at hs
    exact ih (inv_phaseRule h c) hs

/-! ### Every step -/

/-- A whole command is a run of micro-steps from its issue (R183). -/
theorem inv_effect {s : State} (h : Inv s) (c : Cipher) (i : Instr) : Inv (effect c i s) := by
  cases hb : s.busy with
  | true => rw [effect_of_busy hb]; exact h
  | false => exact inv_of_seqRun (inv_issue h hb i) (seqRun_command c i hb)

/-- Settles O57, event by event. -/
theorem stepKeepsInvariant : Obligations.StepKeepsInvariant := by
  unfold Obligations.StepKeepsInvariant
  intro s t h hs
  have hrest (rest : List Event) : Inv { s with schedule := rest } := inv_of_eq_machine h rfl
  obtain ⟨-, hseq⟩ | ⟨rest, ⟨a, v, -, rfl⟩ | ⟨a, -, rfl⟩ | ⟨-, hseq⟩ | ⟨d, -, rfl⟩ | ⟨v, i, -, -, rfl⟩ |
    ⟨v, e, -, -, rfl⟩⟩ := step_cases hs
  · exact inv_of_seqStep h hseq
  · exact inv_hostWrite (hrest rest) a v
  · exact inv_of_eq_machine h rfl
  · exact inv_of_seqStep (hrest rest) hseq
  · exact inv_resetWith d _
  · exact inv_effect (hrest rest) Config.cipher i
  · exact inv_hostWrite (hrest rest) cmdAddr v

/-- From a state of the invariant no event stops the machine: only a micro-step could, and its precondition holds. -/
theorem exists_step_of_inv {s : State} (h : Inv s) : ∃ t, step s = .next t := by
  unfold step stepOver
  split
  · exact ⟨_, seqStep_of_inv h _⟩
  · rename_i e rest _
    cases e with
    | write a v => exact ⟨_, rfl⟩
    | read a => exact ⟨_, rfl⟩
    | seq => exact ⟨_, seqStep_of_inv (inv_of_eq_machine h rfl) _⟩
    | reset d => exact ⟨_, rfl⟩
    | command v =>
      cases hd : decode v with
      | ok i => simp only [applyEvent, hd, exec_eq_effect]; exact ⟨_, rfl⟩
      | error e => simp only [applyEvent, hd]; exact ⟨_, rfl⟩

theorem inv_of_run {n : Nat} {s t : State} (h : Inv s) (hs : Host.Core.run Sys2Proof.core n s = .next t) : Inv t := by
  induction n generalizing s with
  | zero => cases hs; exact h
  | succ n ih =>
    obtain ⟨u, hu⟩ := exists_step_of_inv h
    rw [run_succ hu] at hs
    exact ih (stepKeepsInvariant s u h hu) hs

/-- Settles O58: a step from a state of the invariant answers, and answers a state of the invariant. -/
theorem invariantRunsAreSafe : Obligations.InvariantRunsAreSafe := by
  unfold Obligations.InvariantRunsAreSafe
  intro s h n
  induction n generalizing s with
  | zero => exact ⟨s, rfl⟩
  | succ n ih =>
    obtain ⟨t, ht⟩ := exists_step_of_inv h
    rw [run_succ ht]
    exact ih t (stepKeepsInvariant s t h ht)

/-! ### CFAIL and CBS -/

/-- The two fields that say what capability is wired (45_handle R200). -/
def capability (s : State) : Nat × Bool := (s.cbs, s.cfail)

theorem capability_issueByte (v : Byte) (s : State) : capability (issueByte v s) = capability s := by
  obtain ⟨i, -, hi⟩ | ⟨e, -, hi⟩ := issueByte_cases v s
  · rw [hi]; simp [capability]
  · rw [hi]; simp [capability]

theorem capability_hostWrite (a : Addr) (v : Byte) (s : State) : capability (hostWrite a v s) = capability s := by
  obtain ⟨-, he⟩ | ⟨-, -, he⟩ | ⟨-, -, -, he⟩ | ⟨-, -, he⟩ | ⟨-, -, he⟩ | ⟨-, -, he⟩ | ⟨-, -, he⟩ | ⟨-, -, he⟩ :=
    hostWrite_cases a v s <;> rw [he]
  · rfl
  · rfl
  · rfl
  · exact capability_issueByte v s
  · rfl
  · rfl

theorem capability_of_seqStep {c : Cipher} {s t : State} (h : seqStep c s = .next t) : capability t = capability s := by
  have hsame := sameInputs_of_seqStep h
  rw [capability, hsame.cbs, hsame.cfail, capability]

theorem capability_effect (c : Cipher) (i : Instr) (s : State) : capability (effect c i s) = capability s := by
  have hsame := sameEnvironment_effect c i s
  rw [capability, hsame.cbs, hsame.cfail, capability]

/-- Settles O55, event by event: only a reset sets CFAIL, and it keeps CBS. -/
theorem cfailIsSticky : Obligations.CfailIsSticky := by
  unfold Obligations.CfailIsSticky
  intro s t hs
  have hkept (h : capability t = capability s) :
      t.cbs = s.cbs ∧ ((∀ d rest, s.schedule ≠ .reset d :: rest) → t.cfail = s.cfail) :=
    ⟨congrArg Prod.fst h, fun _ => congrArg Prod.snd h⟩
  obtain ⟨-, hseq⟩ | ⟨rest, ⟨a, v, -, rfl⟩ | ⟨a, -, rfl⟩ | ⟨-, hseq⟩ | ⟨d, hd, rfl⟩ | ⟨v, i, -, -, rfl⟩ |
    ⟨v, e, -, -, rfl⟩⟩ := step_cases hs
  · exact hkept (capability_of_seqStep hseq)
  · exact hkept (capability_hostWrite a v _)
  · exact hkept rfl
  · exact hkept ((capability_of_seqStep hseq).trans rfl)
  · exact ⟨rfl, fun hno => absurd hd (hno d rest)⟩
  · exact hkept (capability_effect Config.cipher i _)
  · exact hkept (capability_hostWrite cmdAddr v _)

/-! ### Every command ends -/

/-- A bound on the sequencer steps left before BUSY is 0, by phase, for `m` Blocks at Block `j`: 6m + 5 from VALIDATE of
an EME command (70_reset_and_hazards R272) with MCNT at most 128. -/
def stepsLeft (p : Phase) (m j : Nat) : Nat :=
  match p with
  | .idle => 0
  | .validate => 773
  | .uDbl | .uXor | .uCiph => 2
  | .lSeed => 6 * m + 4
  | .lGen => 6 * m + 3 - j
  | .p1 => 5 * m + 3 - j
  | .mpInit => 4 * m + 3
  | .mpAcc => 4 * m + 3 - j
  | .mcEnc => 3 * m + 3
  | .mMask => 3 * m + 2
  | .p2 => 3 * m + 2 - j
  | .cccInit => 2 * m + 2
  | .cccAcc => 2 * m + 2 - j
  | .cccSt => m + 2
  | .p3 => m + 1 - j
  | .finish => 1

/-- The bound in a state. -/
def stepsBound (s : State) : Nat := stepsLeft s.phase s.mcnt.toNat s.j.toNat

theorem stepsBound_le {s : State} (h : Inv s) : stepsBound s ≤ 773 := by
  have hm := h.mcnt_le
  unfold stepsBound
  cases s.phase <;> simp only [stepsLeft] <;> omega

theorem lGenNext_cases (func : BitVec 3) : lGenNext func = .finish ∨ lGenNext func = .p1 := ite_eq_or_eq _ _ _

theorem stepsBound_phaseRule_lt {s : State} (h : Inv s) (hp : s.phase ≠ .idle) (c : Cipher) :
    stepsBound (phaseRule c s.phase s) < stepsBound s := by
  have hm := h.mcnt_le
  have hj := j_lt_mcnt_of_inv h
  have hpos := mcnt_pos_of_inv h
  unfold stepsBound
  cases hph : s.phase with
  | idle => exact absurd hph hp
  | validate =>
    obtain ⟨hv, he⟩ | ⟨e, hv, he⟩ := validate_cases s
    · have hm' := (inv_dispatch h hph hv).mcnt_le
      rw [phaseRule, he, dispatch_phase, dispatchPhase]
      split_ifs <;> simp only [stepsLeft] <;> omega
    · simp [phaseRule, he, stepsLeft]
  | lGen =>
    have hlt := hj (by simp [hph])
    by_cases hlast : s.j.toNat + 1 = s.mcnt.toNat
    · obtain hn | hn := lGenNext_cases s.func <;> simp [phaseRule, hlast, hn, stepsLeft] <;> omega
    · simp [phaseRule, hph, hlast, stepsLeft]
      omega
  | p1 | mpAcc | p2 | cccAcc | p3 =>
    have hlt := hj (by simp [hph])
    by_cases hlast : s.j.toNat + 1 = s.mcnt.toNat
    · simp [phaseRule, hlast, stepsLeft]
      omega
    · simp [phaseRule, hph, hlast, stepsLeft]
      omega
  | mpInit | mMask | cccInit =>
    have := hpos (by simp [hph])
    simp only [phaseRule, mpInit_phase, mMask_phase, cccInit_phase]
    split_ifs <;> simp [stepsLeft]
    omega
  | _ => simp [phaseRule, stepsLeft]

/-- The step that ends a command sets DONE. -/
theorem done_of_command_end {c : Cipher} {s : State} (hb : s.busy = true)
    (ht : (phaseRule c s.phase s).busy = false) : (phaseRule c s.phase s).done = true := by
  cases hp : s.phase with
  | validate =>
    obtain ⟨hv, he⟩ | ⟨e, hv, he⟩ := validate_cases s
    · simp [hp, phaseRule, he, hb] at ht
    · rw [phaseRule, he, fail_done]
  | finish => rfl
  | _ => simp [phaseRule, hp, hb] at ht

/-- A busy state of the invariant is done after at most as many steps as its bound. -/
theorem exists_end {s : State} (h : Inv s) (hb : s.busy = true) (c : Cipher) :
    ∃ n ≤ stepsBound s, ∃ t, seqRun c n s = .next t ∧ t.busy = false ∧ t.done = true := by
  generalize hk : stepsBound s = k
  induction k using Nat.strong_induction_on generalizing s with
  | _ k ih =>
    have hlt := stepsBound_phaseRule_lt h (h.busy_iff.mp hb) c
    have hstep := seqStep_of_inv h c
    cases hb' : (phaseRule c s.phase s).busy with
    | false =>
      exact ⟨1, by omega, _, by rw [seqRun_succ hstep, seqRun_zero], hb', done_of_command_end hb hb'⟩
    | true =>
      obtain ⟨n, hn, t, ht, hend⟩ := ih _ (hk ▸ hlt) (inv_phaseRule h c) hb' rfl
      exact ⟨n + 1, by omega, t, by rw [seqRun_succ hstep, ht], hend⟩

/-- Settles O42: the bound falls with every step. -/
theorem busyCommandCompletes : Obligations.BusyCommandCompletes := by
  unfold Obligations.BusyCommandCompletes
  intro c s h hb
  obtain ⟨n, hn, t, ht, hbusy, hdone⟩ := exists_end h hb c
  exact ⟨n, hn.trans (stepsBound_le h), t, ht, hbusy, hdone, phase_of_not_busy (inv_of_seqRun h ht) hbusy⟩

end Sys2Proof.Proofs.Invariant

/-! What LGEN and the EME commands leave in OBUF and in the L-table (43_ltable R155, 44_transform R183 to R185): the
values that 44_transform R168 names, followed from phase to phase. -/

namespace Sys2Proof.Proofs.CommandResults

open Sys2Proof.Machine Sys2Proof.Proofs.Statelessness Sys2Proof.Proofs.LTable Sys2Proof.Proofs.Transform
  Sys2Proof.Proofs.Validation Sys2Proof.Proofs.SequencerStep Sys2Proof.Proofs.SequencerRuns
  Sys2Proof.Proofs.Invariant

/-! ### Buffers with known Blocks -/

/-- A canonical buffer whose first `n` Blocks are those of `F`. -/
structure HoldsBelow (n : Nat) (mem : Memory) (F : Nat → Block) : Prop where
  wf : Memory.wf mem = true
  block : ∀ k < n, Memory.block mem k = F k

theorem holdsBelow_zero {mem : Memory} (h : Memory.wf mem = true) (F : Nat → Block) : HoldsBelow 0 mem F :=
  ⟨h, fun _ hk => absurd hk (Nat.not_lt_zero _)⟩

theorem HoldsBelow.congr {n : Nat} {mem : Memory} {F F' : Nat → Block} (h : HoldsBelow n mem F)
    (hF : ∀ k < n, F k = F' k) : HoldsBelow n mem F' := ⟨h.wf, fun k hk => (h.block k hk).trans (hF k hk)⟩

/-- Storing the value that `F'` has at Block `j`, where `F'` is otherwise what the buffer holds. -/
theorem HoldsBelow.setBlock {n n' j : Nat} {mem : Memory} {F F' : Nat → Block} (h : HoldsBelow n mem F)
    (hj : j < Config.maxBlk) (hF : ∀ k < n', k ≠ j → k < n ∧ F' k = F k) :
    HoldsBelow n' (Memory.setBlock mem j (F' j)) F' where
  wf := Memory.wf_setBlock h.wf _ hj
  block k hk := by
    by_cases hkj : k = j
    · rw [hkj, Memory.block_setBlock_self h.wf _ hj]
    · obtain ⟨hkn, hFk⟩ := hF k hk hkj
      rw [Memory.block_setBlock_other _ _ hkj, h.block k hkn, hFk]

/-! ### Loops -/

/-- A phase executed once, which keeps MCNT and sets J to `k'`. -/
theorem atBlock_single {g : State → State} (hmcnt : ∀ s, (g s).mcnt = s.mcnt) {k' : Nat}
    (hj : ∀ s, (g s).j.toNat = k') {m k : Nat} {s : State} (h : AtBlock m k s) : AtBlock m k' (g s) :=
  ⟨by rw [hmcnt, h.mcnt], fun _ => hj s⟩

/-- A loop from Block `k` to the last: what every execution carries on holds at the end. -/
theorem loop_holds {f : State → State} (hf : LoopRule f) {m : Nat} (hm : m ≤ 128) {A : Nat → State → Prop}
    (hA : ∀ k s, k < m → s.j.toNat = k → A k s → A (k + 1) (f s)) {n k : Nat} (hkn : k + n = m) {s : State}
    (hat : AtBlock m k s) (hs : A k s) : AtBlock m m (f^[n] s) ∧ A m (f^[n] s) :=
  have hlock := Lockstep.iterate hf hm (A := fun k s _ => A k s) (fun k s _ hk hj _ => hA k s hk hj) hkn
    (⟨hat, hat, hs⟩ : Lockstep m k _ s s)
  ⟨hlock.left, hlock.agree⟩

/-! ### The values of R168

`u` is the state in which the command's phases begin, with its operands in IBUF, TWEAK and DIR. -/

section
variable (c : Cipher) (u : State)

/-- Entry `j` of the L-table. -/
def multiplier (j : Nat) : Block := double^[j + 1] (c.E 0)

/-- Slot `j` after pass 1. -/
def pass1Slot (j : Nat) : Block := bc c u.dir (blockXor (ib u j) (multiplier c j))

/-- The sum of step 3 over the first `n` slots. -/
def mpSum (n : Nat) : Block := (List.range n).foldl (fun x j => blockXor x (pass1Slot c u j)) u.tweak

/-- MC for `m` Blocks. -/
def mixMC (m : Nat) : Block := bc c u.dir (mpSum c u m)

/-- Slot `j` after pass 2, from slot 1 up. -/
def pass2Slot (m j : Nat) : Block :=
  blockXor (pass1Slot c u j) (double^[j] (blockXor (mpSum c u m) (mixMC c u m)))

/-- The sum of step 7 over the slots from 1 to `n`. -/
def cccSum (m n : Nat) : Block :=
  (List.range n).foldl (fun x j => blockXor x (pass2Slot c u m (j + 1))) (blockXor (mixMC c u m) u.tweak)

/-- Slot `j` before pass 3. -/
def storedSlot (m j : Nat) : Block := if j = 0 then cccSum c u m (m - 1) else pass2Slot c u m j

/-- Block `j` of the result. -/
def resultBlock (m j : Nat) : Block := blockXor (bc c u.dir (storedSlot c u m j)) (multiplier c j)


/-! ### The transform of 44_transform R167 has these values -/

theorem enterSlots_map_range (m : Nat) :
    enterSlots (bc c u.dir) ((List.range m).map (ib u)) (deriveMultipliers c m) =
      (List.range m).map (pass1Slot c u) := by
  have h := enterSlots_eq_map_range (bc c u.dir) c ((List.range m).map (ib u))
  rw [List.length_map, List.length_range] at h
  rw [h]
  refine List.map_congr_left fun j hj => ?_
  have hj := List.mem_range.mp hj
  simp [hj, pass1Slot, multiplier, blockXor]

theorem mixSlots_pass1 (n : Nat) :
    mixSlots (bc c u.dir) u.tweak ((List.range (n + 1)).map (pass1Slot c u)) =
      (List.range (n + 1)).map (storedSlot c u (n + 1)) := by
  have hslots : (List.range (n + 1)).map (storedSlot c u (n + 1)) =
      cccSum c u (n + 1) n :: (List.range n).map fun j => pass2Slot c u (n + 1) (j + 1) := by
    rw [List.range_succ_eq_map, List.map_cons, List.map_map]
    rfl
  rw [hslots]
  exact mixSlots_map_range (bc c u.dir) u.tweak (pass1Slot c u) n

theorem leaveSlots_map_range (B : Block → Block) (g : Nat → Block) (m : Nat) :
    leaveSlots B ((List.range m).map g) (deriveMultipliers c m) =
      (List.range m).map fun j => blockXor (B (g j)) (multiplier c j) := by
  refine List.ext_getElem? fun j => ?_
  by_cases hj : j < m
  · rw [getElem?_leaveSlots B c hj (x := g j) (by simp [hj])]
    simp [hj, multiplier, blockXor]
  · rw [List.getElem?_eq_none (by simpa using hj), List.getElem?_eq_none (by simpa using hj)]

theorem transformBlocks_eq_map_range {m : Nat} (hpos : 0 < m) :
    transformBlocks c u.tweak ((List.range m).map (ib u)) u.dir = (List.range m).map (resultBlock c u m) := by
  obtain ⟨n, rfl⟩ : ∃ n, m = n + 1 := ⟨m - 1, by omega⟩
  rw [transformBlocks_eq_layers, List.length_map, List.length_range, enterSlots_map_range, mixSlots_pass1,
    leaveSlots_map_range]
  rfl

end

/-! ### What holds before Block `k` of each loop -/

section
variable (c : Cipher) (u : State)

/-- The inputs are those of `u`, the first `o` Blocks of OBUF are those of `F` and the first `l` Blocks of LT are
entries of the L-table. -/
structure Computes (o : Nat) (F : Nat → Block) (l : Nat) (s : State) : Prop where
  inputs : inputs s = inputs u
  obuf : HoldsBelow o s.obuf F
  lt : HoldsBelow l s.lt (multiplier c)

/-- Slot `j` in pass 2 before Block `k`. -/
def midPass2 (m k j : Nat) : Block := if 1 ≤ j ∧ j < k then pass2Slot c u m j else pass1Slot c u j

/-- Slot `j` in pass 3 before Block `k`. -/
def midPass3 (m k j : Nat) : Block := if j < k then resultBlock c u m j else storedSlot c u m j

/-- L_GEN: LS is double^k(E(ZERO)), and LGEN exports the table as it grows (43_ltable R154, R156). -/
def TableAt (k : Nat) (s : State) : Prop :=
  Computes c u (tableOut u.func k) (multiplier c) k s ∧ s.ls = double^[k] (c.E 0)

/-- P1. -/
def Pass1At (m k : Nat) (s : State) : Prop := Computes c u k (pass1Slot c u) m s

/-- MP_ACC. -/
def MpAt (m k : Nat) (s : State) : Prop := Computes c u m (pass1Slot c u) m s ∧ s.mp = mpSum c u k

/-- P2: before Block `n + 1` the mask has been doubled `n` times (44_transform R169). -/
def Pass2At (m k : Nat) (s : State) : Prop :=
  Computes c u m (midPass2 c u m k) m s ∧ s.mc = mixMC c u m ∧
    ∃ n, k = n + 1 ∧ s.m = double^[n] (blockXor (mpSum c u m) (mixMC c u m))

/-- CCC_ACC. -/
def CccAt (m k : Nat) (s : State) : Prop :=
  Computes c u m (midPass2 c u m m) m s ∧ ∃ n, k = n + 1 ∧ s.ccc = cccSum c u m n

/-- P3. -/
def Pass3At (m k : Nat) (s : State) : Prop := Computes c u m (midPass3 c u m k) m s
end

/-! ### One execution of each phase -/

section
variable {c : Cipher} {u : State} {o l m k : Nat} {F : Nat → Block} {s : State}

theorem Computes.tweak (h : Computes c u o F l s) : s.tweak = u.tweak := congrArg (·.2.1) h.inputs
theorem Computes.func (h : Computes c u o F l s) : s.func = u.func := congrArg (·.2.2.1) h.inputs
theorem Computes.dir (h : Computes c u o F l s) : s.dir = u.dir := congrArg (·.2.2.2.1) h.inputs
theorem Computes.ib (h : Computes c u o F l s) (j : Nat) : ib s j = ib u j := by
  simp only [Machine.ib, show s.ibuf = u.ibuf from congrArg (·.1) h.inputs]
theorem Computes.ob (h : Computes c u o F l s) {j : Nat} (hj : j < o) : ob s j = F j := h.obuf.block j hj
theorem Computes.ltBlock (h : Computes c u o F l s) {j : Nat} (hj : j < l) : ltBlock s j = multiplier c j :=
  h.lt.block j hj

/-- A rule that writes neither the inputs nor a buffer. -/
theorem Computes.of_eq (h : Computes c u o F l s) {t : State} (hin : Statelessness.inputs t = Statelessness.inputs s)
    (hobuf : t.obuf = s.obuf) (hlt : t.lt = s.lt) : Computes c u o F l t :=
  ⟨hin.trans h.inputs, hobuf ▸ h.obuf, hlt ▸ h.lt⟩

theorem tableAt_lGen (hm : m ≤ 128) (hk : k < m) (hj : s.j.toNat = k) (h : TableAt c u k s) :
    TableAt c u (k + 1) (lGen s) := by
  obtain ⟨h, hls⟩ := h
  have hentry : double s.ls = multiplier c k := by rw [hls, multiplier, Function.iterate_succ_apply']
  have hblk : k < Config.maxBlk := by simp only [Config.maxBlk]; omega
  refine ⟨⟨by simpa using h.inputs, ?_, ?_⟩, by rw [lGen_ls, hentry]; rfl⟩
  · have hobuf := h.obuf
    simp only [lGen_obuf, h.func, hj, hentry]
    by_cases hf : u.func = 4
    · simp only [tableOut, hf, if_true] at hobuf ⊢
      exact hobuf.setBlock hblk fun i hi hik => ⟨by omega, rfl⟩
    · simpa only [tableOut, hf, if_false] using hobuf
  · rw [lGen_lt, hj, hentry]
    exact h.lt.setBlock hblk fun i hi hik => ⟨by omega, rfl⟩

theorem pass1At_p1 (hm : m ≤ 128) (hk : k < m) (hj : s.j.toNat = k) (h : Pass1At c u m k s) :
    Pass1At c u m (k + 1) (p1 c s) where
  inputs := by simpa using h.inputs
  obuf := by
    have hslot : bc c u.dir (blockXor (ib u k) (multiplier c k)) = pass1Slot c u k := rfl
    rw [p1_obuf, hj, h.dir, h.ib, h.ltBlock hk, hslot]
    exact h.obuf.setBlock (by simp only [Config.maxBlk]; omega) fun i hi hik => ⟨by omega, rfl⟩
  lt := by simpa using h.lt

theorem mpAt_mpInit (hpos : 0 < m) (h : Pass1At c u m m s) : MpAt c u m 1 (mpInit s) := by
  refine ⟨h.of_eq rfl rfl rfl, ?_⟩
  have hsum : mpSum c u 1 = blockXor u.tweak (pass1Slot c u 0) := rfl
  rw [mpInit_mp, h.ob hpos, h.tweak, hsum]
  exact BitVec.xor_comm _ _

theorem mpAt_mpAcc (hk : k < m) (hj : s.j.toNat = k) (h : MpAt c u m k s) : MpAt c u m (k + 1) (mpAcc s) := by
  obtain ⟨h, hmp⟩ := h
  refine ⟨h.of_eq (inputs_mpAcc s) (mpAcc_obuf s) (mpAcc_lt s), ?_⟩
  rw [mpAcc_mp, hj, h.ob hk, hmp, mpSum, mpSum, List.range_succ, List.foldl_append]
  rfl

theorem pass2At_mMask (h : MpAt c u m m s) : Pass2At c u m 1 (mMask (mcEnc c s)) := by
  obtain ⟨h, hmp⟩ := h
  have hslots : midPass2 c u m 1 = pass1Slot c u := funext fun j => if_neg (by omega)
  have hmc : (mMask (mcEnc c s)).mc = mixMC c u m := by
    rw [mMask_mc, mcEnc_mc, hmp, h.dir]
    rfl
  refine ⟨hslots ▸ h.of_eq rfl rfl rfl, hmc, 0, rfl, ?_⟩
  rw [mMask_m, mcEnc_mp, hmp, ← mMask_mc, hmc]
  rfl

theorem pass2At_p2 (hm : m ≤ 128) (hk : k < m) (hj : s.j.toNat = k) (h : Pass2At c u m k s) :
    Pass2At c u m (k + 1) (p2 s) := by
  obtain ⟨h, hmc, n, rfl, hmask⟩ := h
  have hmask' : double s.m = double^[n + 1] (blockXor (mpSum c u m) (mixMC c u m)) := by
    rw [hmask, Function.iterate_succ_apply']
  refine ⟨⟨by simpa using h.inputs, ?_, by simpa using h.lt⟩, by simpa using hmc, n + 1, rfl, by simpa using hmask'⟩
  have hslot : blockXor (ob s (n + 1)) (double s.m) = midPass2 c u m (n + 1 + 1) (n + 1) := by
    rw [h.ob hk, hmask', midPass2, midPass2, if_neg (by omega), if_pos (by omega), pass2Slot]
  rw [p2_obuf, hj, hslot]
  refine h.obuf.setBlock (by simp only [Config.maxBlk]; omega) fun i hi hik => ⟨hi, ?_⟩
  have hiff : (1 ≤ i ∧ i < n + 1 + 1) ↔ (1 ≤ i ∧ i < n + 1) := by omega
  simp only [midPass2, hiff]

theorem cccAt_cccInit (h : Pass2At c u m m s) : CccAt c u m 1 (cccInit s) := by
  obtain ⟨h, hmc, -⟩ := h
  refine ⟨h.of_eq rfl rfl rfl, 0, rfl, ?_⟩
  rw [cccInit_ccc, hmc, h.tweak]
  rfl

theorem cccAt_cccAcc (hk : k < m) (hj : s.j.toNat = k) (h : CccAt c u m k s) : CccAt c u m (k + 1) (cccAcc s) := by
  obtain ⟨h, n, rfl, hccc⟩ := h
  refine ⟨h.of_eq (inputs_cccAcc s) (cccAcc_obuf s) (cccAcc_lt s), n + 1, rfl, ?_⟩
  rw [cccAcc_ccc, hj, h.ob hk, hccc, midPass2, if_pos (by omega), cccSum, cccSum, List.range_succ, List.foldl_append]
  rfl

theorem pass3At_cccSt (h : CccAt c u m m s) : Pass3At c u m 0 (cccSt s) := by
  obtain ⟨h, n, rfl, hccc⟩ := h
  refine ⟨by simpa using h.inputs, ?_, by simpa using h.lt⟩
  have hslot : s.ccc = midPass3 c u (n + 1) 0 0 := hccc
  rw [cccSt_obuf, hslot]
  refine h.obuf.setBlock (by decide) fun i hi hik => ⟨hi, ?_⟩
  rw [midPass3, midPass2, if_neg (by omega), if_pos (by omega), storedSlot, if_neg hik]

theorem pass3At_p3 (hm : m ≤ 128) (hk : k < m) (hj : s.j.toNat = k) (h : Pass3At c u m k s) :
    Pass3At c u m (k + 1) (p3 c s) where
  inputs := by simpa using h.inputs
  obuf := by
    have hslot : blockXor (bc c u.dir (midPass3 c u m k k)) (multiplier c k) = midPass3 c u m (k + 1) k := by
      rw [midPass3, midPass3, if_neg (by omega), if_pos (by omega), resultBlock]
    rw [p3_obuf, hj, h.dir, h.ob hk, h.ltBlock hk, hslot]
    refine h.obuf.setBlock (by simp only [Config.maxBlk]; omega) fun i hi hik => ⟨hi, ?_⟩
    have hiff : i < k + 1 ↔ i < k := by omega
    simp only [midPass3, hiff]
  lt := by simpa using h.lt
end

/-! ### All phases between VALIDATE and FINISH -/

section
variable {c : Cipher} {u : State} {m : Nat} (hm : m ≤ 128) (hpos : 0 < m) (hmc : u.mcnt.toNat = m)
  (hobuf : Memory.wf u.obuf = true) (hlt : Memory.wf u.lt = true)
include hm hpos hmc hobuf hlt

theorem computes_tableBody :
    AtBlock m 0 (tableBody c u) ∧ Computes c u (tableOut u.func m) (multiplier c) m (tableBody c u) := by
  have hat : AtBlock m 0 (lSeed c u) := ⟨hmc, fun _ => rfl⟩
  have hseed : TableAt c u 0 (lSeed c u) :=
    ⟨⟨inputs_lSeed c u, by simpa using holdsBelow_zero hobuf _, holdsBelow_zero hlt _⟩, rfl⟩
  obtain ⟨-, hend, -⟩ := loop_holds loopRule_lGen hm (A := TableAt c u) (fun _ _ hk hj => tableAt_lGen hm hk hj)
    (Nat.zero_add m) hat hseed
  rw [tableBody, hmc]
  exact ⟨hat.iterate_all loopRule_lGen hm hpos, hend⟩

/-- The whole transform: each loop carries on what its first Block needs. -/
theorem computes_emeBody : Computes c u m (resultBlock c u m) m (emeBody c u) := by
  have htail : 1 + (m - 1) = m := by omega
  obtain ⟨hat, htable⟩ := computes_tableBody (c := c) hm hpos hmc hobuf hlt
  have hstart : Pass1At c u m 0 (tableBody c u) := ⟨htable.inputs, holdsBelow_zero htable.obuf.wf _, htable.lt⟩
  obtain ⟨hat, hpass1⟩ := loop_holds (loopRule_p1 c) hm (A := Pass1At c u m)
    (fun _ _ hk hj => pass1At_p1 hm hk hj) (Nat.zero_add m) hat hstart
  obtain ⟨hat, hmp⟩ := loop_holds loopRule_mpAcc hm (A := MpAt c u m) (fun _ _ hk hj => mpAt_mpAcc hk hj) htail
    (atBlock_single mpInit_mcnt (fun _ => rfl) hat) (mpAt_mpInit hpos hpass1)
  obtain ⟨hat, hpass2⟩ := loop_holds loopRule_p2 hm (A := Pass2At c u m) (fun _ _ hk hj => pass2At_p2 hm hk hj) htail
    (atBlock_single (g := fun t => mMask (mcEnc c t)) (fun _ => rfl) (fun _ => rfl) hat) (pass2At_mMask hmp)
  obtain ⟨hat, hccc⟩ := loop_holds loopRule_cccAcc hm (A := CccAt c u m) (fun _ _ hk hj => cccAt_cccAcc hk hj) htail
    (atBlock_single cccInit_mcnt (fun _ => rfl) hat) (cccAt_cccInit hpass2)
  obtain ⟨-, hpass3⟩ := loop_holds (loopRule_p3 c) hm (A := Pass3At c u m) (fun _ _ hk hj => pass3At_p3 hm hk hj)
    (Nat.zero_add m) (atBlock_single cccSt_mcnt (fun _ => rfl) hat) (pass3At_cccSt hccc)
  have hslots : ∀ k < m, midPass3 c u m m k = resultBlock c u m k := fun k hk => if_pos hk
  simp only [emeBody, hmc]
  exact ⟨hpass3.inputs, hpass3.obuf.congr hslots, hpass3.lt⟩
end

/-! ### Buffers as byte strings -/

theorem readBytes_add (mem : Memory) (a n k : Nat) :
    Memory.readBytes mem a (n + k) = Memory.readBytes mem a n ++ Memory.readBytes mem (a + n) k := by
  induction n generalizing a with
  | zero => simp [Memory.readBytes]
  | succ n ih =>
    rw [Nat.succ_add, Memory.readBytes, Memory.readBytes, ih, List.cons_append, Nat.add_assoc, Nat.add_comm 1 n]

/-- The first `m` Blocks of a buffer are its first 16m bytes (20_memory R66). -/
theorem bytesOfBlocks_blocks (mem : Memory) (m : Nat) :
    bytesOfBlocks ((List.range m).map (Memory.block mem)) = Memory.readBytes mem 0 (16 * m) := by
  induction m with
  | zero => rfl
  | succ m ih =>
    have hblock : bytesOfBlock (Memory.block mem m) = Memory.readBytes mem (0 + 16 * m) 16 := by
      rw [Memory.block, bytesOfBlock_blockOfBytes _ (Memory.length_readBytes _ _ _), Nat.zero_add]
      rfl
    rw [Nat.mul_succ, readBytes_add, ← ih, ← hblock, List.range_succ, List.map_append]
    simp [bytesOfBlocks]

theorem blocksOfBytes_readBytes (mem : Memory) (m : Nat) :
    blocksOfBytes m (Memory.readBytes mem 0 (16 * m)) = (List.range m).map (Memory.block mem) := by
  have h := blocksOfBytes_bytesOfBlocks ((List.range m).map (Memory.block mem))
  rwa [List.length_map, List.length_range, bytesOfBlocks_blocks] at h

/-! ### Whole commands that pass VALIDATE -/

section
variable {i : Instr} {s : State}

/-- The result of an EME command, Block by Block: `transform` of the message in IBUF (44_transform R184, R185). -/
theorem blocks_effect_eme (c : Cipher) (heme : i = .emeE ∨ i = .emeD) (h : Inv s) (hb : s.busy = false)
    (hvalid : validationError (issue i s) = none) :
    (List.range (blockCount s)).map (ob (effect c i s)) =
      transformBlocks c s.tweak ((List.range (blockCount s)).map (ib s)) i.fields.dir := by
  have hlen : usesLength i.fields.func = true := by rw [func_of_eme heme]; rfl
  obtain ⟨hmc, hpos, hm⟩ := dispatch_issue_mcnt hlen hvalid
  have hbody : Computes c (dispatch (issue i s)) (blockCount s) _ _ _ :=
    computes_emeBody hm hpos hmc (by simpa using h.obuf_wf) (by simpa using h.lt_wf)
  have heffect : effect c i s = finish (emeBody c (dispatch (issue i s))) := by
    rw [← command_of_valid hb hvalid]
    obtain rfl | rfl := heme <;> rfl
  have htransform := transformBlocks_eq_map_range c (dispatch (issue i s)) hpos
  rw [dispatch_tweak, issue_tweak, dispatch_dir, issue_dir] at htransform
  have hib : (List.range (blockCount s)).map (ib s) = (List.range (blockCount s)).map (ib (dispatch (issue i s))) :=
    List.map_congr_left fun j _ => (UnitCommands.ib_dispatch_issue i s j).symm
  rw [hib, htransform, heffect]
  exact List.map_congr_left fun j hj => hbody.obuf.block j (List.mem_range.mp hj)

/-- The result of LGEN (43_ltable R155). -/
theorem blocks_effect_lgen (c : Cipher) (h : Inv s) (hb : s.busy = false)
    (hvalid : validationError (issue .lgen s) = none) :
    ∀ j < blockCount s, ob (effect c .lgen s) j = multiplier c j ∧ ltBlock (effect c .lgen s) j = multiplier c j := by
  obtain ⟨hmc, hpos, hm⟩ := dispatch_issue_mcnt rfl hvalid
  obtain ⟨-, hbody⟩ := computes_tableBody (c := c) hm hpos hmc h.obuf_wf h.lt_wf
  have heffect : effect c .lgen s = finish (tableBody c (dispatch (issue .lgen s))) := command_of_valid hb hvalid _
  rw [heffect]
  exact fun j hj => ⟨hbody.obuf.block j hj, hbody.lt.block j hj⟩

/-- What a successful command that reads MLEN leaves in the status and control registers. -/
structure Completed (i : Instr) (s t : State) : Prop where
  rlen : t.rlen = s.mlen
  err : t.err = .none
  busy : t.busy = false
  done : t.done = true
  phase : t.phase = .idle
  mcnt : t.mcnt.toNat = blockCount s
  j : t.j = 0
  inputs : SameInputs (issue i s) t

theorem exists_effect_eq_finish (c : Cipher) (hlen : usesLength i.fields.func = true) (hb : s.busy = false)
    (hvalid : validationError (issue i s) = none) :
    ∃ u, effect c i s = finish u ∧ u.mcnt = (dispatch (issue i s)).mcnt ∧ u.err = .none := by
  cases i with
  | lgen => exact ⟨_, command_of_valid hb hvalid _, tableBody_mcnt c _, by simp⟩
  | emeE | emeD => exact ⟨_, command_of_valid hb hvalid _, emeBody_mcnt c _, by simp⟩
  | _ => exact absurd hlen (by decide)

theorem completed_of_valid (c : Cipher) (hlen : usesLength i.fields.func = true) (h : Inv s) (hb : s.busy = false)
    (hvalid : validationError (issue i s) = none) : Completed i s (effect c i s) := by
  have hI := inv_effect h c i
  have hsame := sameInputs_of_seqRun (seqRun_command c i hb)
  obtain ⟨hmc, -, -⟩ := dispatch_issue_mcnt hlen hvalid
  obtain ⟨-, -, hlength⟩ := validationError_none hvalid
  obtain ⟨-, -, -, hmlen⟩ := hlength (by rwa [issue_func])
  have hcount : blockCount (issue i s) = blockCount s := by simp [blockCount]
  rw [issue_mlen, hcount] at hmlen
  obtain ⟨u, hu, humc, herr⟩ := exists_effect_eq_finish c hlen hb hvalid
  have hmcnt : u.mcnt.toNat = blockCount s := by rw [humc, hmc]
  rw [hu] at hI hsame ⊢
  exact
    { rlen := BitVec.eq_of_toNat_eq (by rw [toNat_rlen_finish, hmcnt, hmlen])
      err := herr
      busy := rfl
      done := rfl
      phase := rfl
      mcnt := hmcnt
      j := j_of_not_busy hI rfl
      inputs := hsame }

/-- An EME command passes VALIDATE when CBS, TLEN and MLEN are as the mode needs (45_handle R203). -/
theorem validationError_issue_eme (i : Instr) (hcbs : s.cbs = 16) (htlen : s.tlen = 16) (hmin : 16 ≤ s.mlen.toNat)
    (hmax : s.mlen.toNat ≤ 2048) (hmod : s.mlen.toNat % 16 = 0) : validationError (issue i s) = none :=
  validationError_of_mlen_valid (by rwa [issue_cbs]) (fun _ => by rwa [issue_tlen]) (by rwa [issue_mlen])
    (by rwa [issue_mlen]) (by rwa [issue_mlen])

/-- The result of an EME command as bytes. -/
theorem transform_effect_eme (c : Cipher) (heme : i = .emeE ∨ i = .emeD) (h : Inv s) (hb : s.busy = false)
    (hcbs : s.cbs = 16) (htlen : s.tlen = 16) (hmin : 16 ≤ s.mlen.toNat) (hmax : s.mlen.toNat ≤ 2048)
    (hmod : s.mlen.toNat % 16 = 0) :
    transform 16 c s.tweak 16 (Memory.readBytes s.ibuf 0 s.mlen.toNat) i.fields.dir =
      .ok (Memory.readBytes (effect c i s).obuf 0 s.mlen.toNat) := by
  have hcount : blockCount s = s.mlen.toNat / 16 := rfl
  have hmlen : s.mlen.toNat = 16 * blockCount s := by omega
  have hblocks := blocks_effect_eme c heme h hb (validationError_issue_eme i hcbs htlen hmin hmax hmod)
  rw [hmlen, transform_of_length (m := blockCount s) (by omega) (by omega) (Memory.length_readBytes _ _ _),
    blocksOfBytes_readBytes, ← bytesOfBlocks_blocks]
  exact congrArg (fun X => Except.ok (bytesOfBlocks X)) hblocks.symm
end

/-- EME.E and EME.D on success, over both directions. -/
theorem exec_eme {i : Instr} {s : State} (heme : i = .emeE ∨ i = .emeD) (h : Inv s) (hb : s.busy = false)
    (hcbs : s.cbs = 16) (htlen : s.tlen = 16) (hmin : 16 ≤ s.mlen.toNat) (hmax : s.mlen.toNat ≤ 2048)
    (hmod : s.mlen.toNat % 16 = 0) :
    ∃ t, exec i s = .next t ∧
      transform 16 Config.cipher s.tweak 16 (Memory.readBytes s.ibuf 0 s.mlen.toNat) i.fields.dir =
        .ok (Memory.readBytes t.obuf 0 s.mlen.toNat) ∧
      t.rlen = s.mlen ∧ t.err = .none ∧ t.busy = false ∧ t.done = true ∧ t.phase = .idle ∧
      t.mcnt.toNat = s.mlen.toNat / 16 ∧ t.j = 0 ∧ t.func = 5 ∧ t.dir = i.fields.dir ∧
      t.ibuf = s.ibuf ∧ t.tweak = s.tweak ∧ t.tlen = s.tlen ∧ t.mlen = s.mlen := by
  have hlen : usesLength i.fields.func = true := by rw [func_of_eme heme]; rfl
  have hdone := completed_of_valid Config.cipher hlen h hb (validationError_issue_eme i hcbs htlen hmin hmax hmod)
  have hin := hdone.inputs
  exact ⟨_, exec_eq_effect i s, transform_effect_eme Config.cipher heme h hb hcbs htlen hmin hmax hmod,
    hdone.rlen, hdone.err, hdone.busy, hdone.done, hdone.phase, hdone.mcnt, hdone.j,
    hin.func.trans ((issue_func i s).trans (func_of_eme heme)), hin.dir.trans (issue_dir i s),
    hin.ibuf.trans (issue_ibuf i s), hin.tweak.trans (issue_tweak i s), hin.tlen.trans (issue_tlen i s),
    hin.mlen.trans (issue_mlen i s)⟩

/-- Settles O13: EME.E is the EME command of direction 0. -/
theorem emeEncryptsMessage : Obligations.EmeEncryptsMessage := by
  unfold Obligations.EmeEncryptsMessage
  exact fun s h hb hcbs htlen hmin hmax hmod => exec_eme (i := .emeE) (.inl rfl) h hb hcbs htlen hmin hmax hmod

/-- Settles O14: EME.D is the EME command of direction 1. -/
theorem emeDecryptsMessage : Obligations.EmeDecryptsMessage := by
  unfold Obligations.EmeDecryptsMessage
  exact fun s h hb hcbs htlen hmin hmax hmod => exec_eme (i := .emeD) (.inr rfl) h hb hcbs htlen hmin hmax hmod

/-- Settles O11: the entries of the table are the values that L_GEN carries on. -/
theorem lgenBuildsTable : Obligations.LgenBuildsTable := by
  unfold Obligations.LgenBuildsTable
  intro s h hb hcbs hmin hmax hmod
  have htweak : usesTweak Instr.lgen.fields.func = false := rfl
  have hvalid : validationError (issue .lgen s) = none :=
    validationError_of_mlen_valid hcbs (by simp [htweak]) hmod hmin hmax
  have hdone := completed_of_valid Config.cipher rfl h hb hvalid
  exact ⟨_, exec_eq_effect .lgen s, blocks_effect_lgen Config.cipher h hb hvalid, hdone.rlen, hdone.err, hdone.busy,
    hdone.done, hdone.phase, hdone.mcnt, hdone.j, hdone.inputs.func, hdone.inputs.dir⟩

/-- Settles O32: the second command is given the first one's result, and the transform undoes itself. -/
theorem commandRoundTrip : Obligations.CommandRoundTrip := by
  unfold Obligations.CommandRoundTrip
  intro c s hc h hb hcbs htlen hmin hmax hmod
  have hvalid := validationError_issue_eme .emeE hcbs htlen hmin hmax hmod
  have hdone := completed_of_valid c rfl h hb hvalid
  have hin := hdone.inputs
  have hI := inv_effect h c .emeE
  let t : State := { effect c .emeE s with ibuf := (effect c .emeE s).obuf }
  have ht : Inv t := { hI with ibuf_wf := hI.obuf_wf }
  have hmlen : t.mlen = s.mlen := hin.mlen
  have hvalid' : validationError (issue .emeD t) = none :=
    validationError_issue_eme .emeD (hin.cbs.trans hcbs) (hin.tlen.trans htlen) (hmlen ▸ hmin) (hmlen ▸ hmax)
      (hmlen ▸ hmod)
  have hcount : blockCount t = blockCount s := by rw [blockCount, hmlen, blockCount]
  have henc := blocks_effect_eme c (.inl rfl) h hb hvalid
  have hdec := blocks_effect_eme c (.inr rfl) ht hdone.busy hvalid'
  have htweak : t.tweak = s.tweak := hin.tweak
  have hib : ib t = ob (effect c .emeE s) := rfl
  have hinverse : Function.LeftInverse (bc c Instr.emeD.fields.dir) (bc c Instr.emeE.fields.dir) :=
    hc.decipher_encipher
  rw [hcount, htweak, hib, henc, transformBlocks_transformBlocks hinverse] at hdec
  exact fun j hj => List.map_inj_left.mp hdec j (List.mem_range.mpr hj)

end Sys2Proof.Proofs.CommandResults

/-! What a command leaves alone (43_ltable R155, 44_transform R184, 60_exceptions R222): the bytes of OBUF and of the
L-table outside the Blocks that its phases store to, and the registers it does not use. Then what the host reads after a
unit command. -/

namespace Sys2Proof.Proofs.Frames

open Sys2Proof.Machine Sys2Proof.Proofs.Statelessness Sys2Proof.Proofs.UnitCommands Sys2Proof.Proofs.CipherCommands
  Sys2Proof.Proofs.Validation Sys2Proof.Proofs.SequencerStep Sys2Proof.Proofs.SequencerRuns

/-! ### Bytes that no phase stores to -/

/-- The byte at `a` of OBUF and of the L-table is the same. -/
def SameByte (a : Nat) (s t : State) : Prop :=
  Memory.read t.obuf a = Memory.read s.obuf a ∧ Memory.read t.lt a = Memory.read s.lt a

/-- A byte outside the first `m` Blocks. -/
def Outside (m a : Nat) : Prop := ∀ j < m, a < blockOffset j ∨ blockOffset j + 16 ≤ a

/-- A property that the steps of a run in its phases keep holds at the end of the run. -/
theorem trace_keeps {c : Cipher} {P : State → Prop} {s t : State} {ps : List Phase} (h : Trace c s ps t)
    (hP : ∀ s t, s.phase ∈ ps → seqStep c s = .next t → P s → P t) (hs : P s) : P t := by
  induction h with
  | nil s => exact hs
  | cons hp hstep _ ih =>
    exact ih (fun s t hmem => hP s t (List.mem_cons_of_mem _ hmem)) (hP _ _ (hp ▸ List.mem_cons_self) hstep hs)

/-- The phases of LGEN and EME. -/
theorem mem_emePhases {m : Nat} {p : Phase} (hp : p ∈ emePhases m) :
    p ∉ ([.idle, .validate, .uDbl, .uXor, .uCiph, .finish] : List Phase) := by
  simp only [emePhases, tablePhases, List.mem_append, List.mem_cons, List.mem_replicate] at hp
  rintro hmem
  simp only [List.mem_cons, List.not_mem_nil, or_false] at hmem
  rcases hmem with rfl | rfl | rfl | rfl | rfl | rfl <;> simp at hp

theorem mem_emePhases_of_tablePhases {m : Nat} {p : Phase} (hp : p ∈ tablePhases m) : p ∈ emePhases m := by
  simp [emePhases, hp]

/-- A phase of LGEN or EME stores to Block J of its loop or to Block 0, and keeps MCNT. -/
theorem sameByte_of_seqStep {c : Cipher} {m a : Nat} (hpos : 0 < m) (hout : Outside m a) {s t : State}
    (hp : s.phase ∈ emePhases m) (hm : s.mcnt.toNat = m) (h : seqStep c s = .next t) :
    t.mcnt.toNat = m ∧ SameByte a s t := by
  obtain ⟨hready, rfl⟩ := seqStep_eq_next_iff.mp h
  have hzero := hout 0 hpos
  have hother := mem_emePhases hp
  cases hph : s.phase with
  | idle | validate | uDbl | uXor | uCiph | finish => simp [hph] at hother
  | lGen | p1 | mpAcc | p2 | cccAcc | p3 =>
    have hj : s.j.toNat < m := by
      simp [phaseReady, hph, loopReady] at hready
      omega
    have hread (mem : Memory) (X : Block) : Memory.read (Memory.setBlock mem s.j.toNat X) a = Memory.read mem a :=
      Memory.read_setBlock_other mem X (hout _ hj)
    simp [phaseRule, SameByte, hread, apply_ite (Memory.read · a), hm]
  | cccSt => simp [phaseRule, SameByte, Memory.read_setBlock_other _ _ hzero, hm]
  | _ => simp [phaseRule, SameByte, hm]

/-- The frame of the buffers, over a run in the phases of LGEN or EME. -/
theorem sameByte_of_trace {c : Cipher} {m a : Nat} (hpos : 0 < m) (hout : Outside m a) {ps : List Phase} {s t : State}
    (hps : ∀ p ∈ ps, p ∈ emePhases m) (hm : s.mcnt.toNat = m) (h : Trace c s ps t) : SameByte a s t := by
  have hkept : t.mcnt.toNat = m ∧ SameByte a s t := by
    refine trace_keeps (P := fun t => t.mcnt.toNat = m ∧ SameByte a s t) h ?_ ⟨hm, rfl, rfl⟩
    rintro s' t' hp hstep ⟨hm', hobuf, hlt⟩
    obtain ⟨hm'', hobuf', hlt'⟩ := sameByte_of_seqStep hpos hout (hps _ hp) hm' hstep
    exact ⟨hm'', hobuf'.trans hobuf, hlt'.trans hlt⟩
  exact hkept.2

/-! ### Commands -/

/-- A command that is dropped or fails stores nothing. -/
theorem sameByte_of_dropped_or_failed (c : Cipher) {i : Instr} {s : State}
    (h : s.busy = true ∨ ∃ e, validationError (issue i s) = some e) (a : Nat) : SameByte a s (effect c i s) := by
  cases hb : s.busy with
  | true => rw [effect_of_busy hb]; exact ⟨rfl, rfl⟩
  | false =>
    obtain hb' | ⟨e, he⟩ := h
    · simp [hb] at hb'
    · rw [effect_of_error hb he]
      simp [SameByte]

/-- LGEN and EME store to their first `m` Blocks only. -/
theorem sameByte_effect (c : Cipher) {i : Instr} (hlen : usesLength i.fields.func = true) {s : State} {a : Nat}
    (hout : Outside (blockCount s) a) : SameByte a s (effect c i s) := by
  cases hb : s.busy with
  | true => exact sameByte_of_dropped_or_failed c (.inl hb) a
  | false =>
    cases hv : validationError (issue i s) with
    | some e => exact sameByte_of_dropped_or_failed c (.inr ⟨e, hv⟩) a
    | none =>
      obtain ⟨hmc, hpos, -⟩ := dispatch_issue_mcnt hlen hv
      obtain ⟨u, htrace, -, -, heffect⟩ := exists_trace_of_dispatch hv c
      have hps : ∀ p ∈ bodyPhases i (blockCount s), p ∈ emePhases (blockCount s) := by
        cases i with
        | lgen => exact fun p => mem_emePhases_of_tablePhases
        | emeE | emeD => exact fun p => id
        | _ => exact absurd hlen (by decide)
      have hsame := sameByte_of_trace hpos hout hps hmc htrace
      simpa [SameByte, heffect hb] using hsame

/-- Settles O15, by the phases of an EME command. -/
theorem emeCommandsFrame : Obligations.EmeCommandsFrame := by
  unfold Obligations.EmeCommandsFrame
  intro i s t heme hexec
  rw [exec_eq_effect, Host.Outcome.next.injEq] at hexec
  subst hexec
  have hlen : usesLength i.fields.func = true := by rw [func_of_eme heme]; rfl
  have henv := sameEnvironment_effect Config.cipher i s
  exact ⟨fun a => by rw [henv.ibuf], fun a hout => sameByte_effect _ hlen hout,
    fun h a => sameByte_of_dropped_or_failed _ h a, henv.tweak, henv.tlen, henv.mlen, henv.cfail, henv.cbs,
    henv.schedule, henv.reads⟩

/-- The registers of the transform, which LGEN does not use. -/
def transformRegs (s : State) : Block × Block × Block × Block := (s.mp, s.mc, s.m, s.ccc)

theorem transformRegs_tableBody (c : Cipher) (s : State) : transformRegs (tableBody c s) = transformRegs s :=
  (iterate_keeps transformRegs (fun s => by simp [transformRegs]) _ _).trans rfl

theorem transformRegs_lgen (c : Cipher) (s : State) : transformRegs (effect c .lgen s) = transformRegs s := by
  rw [effect, lgenEffect]
  obtain ⟨-, he⟩ | ⟨-, e, -, he⟩ | ⟨-, -, he⟩ := command_cases .lgen (tableBody c) s <;> rw [he]
  · rfl
  · exact (transformRegs_tableBody c _).trans rfl

/-- Settles O12, by the phases of LGEN. -/
theorem lgenFrame : Obligations.LgenFrame := by
  unfold Obligations.LgenFrame
  intro s t hexec
  rw [exec_eq_effect, Host.Outcome.next.injEq] at hexec
  subst hexec
  have henv := sameEnvironment_effect Config.cipher .lgen s
  have hregs := transformRegs_lgen Config.cipher s
  simp only [transformRegs, Prod.mk.injEq] at hregs
  obtain ⟨hmp, hmc, hm, hccc⟩ := hregs
  exact ⟨fun a => by rw [henv.ibuf], fun a hout => sameByte_effect _ rfl hout,
    fun h a => sameByte_of_dropped_or_failed _ h a, henv.tweak, henv.tlen, henv.mlen, henv.cfail, hmp, hmc, hm, hccc,
    henv.cbs, henv.schedule, henv.reads⟩

/-! ### The unit commands -/

/-- A unit command is dropped, fails, or ends with one Block stored. -/
theorem effect_unit_cases (c : Cipher) {i : Instr} (hunit : i = .dbl ∨ i = .bxor ∨ i = .ciphE ∨ i = .ciphD)
    (s : State) :
    (s.busy = true ∧ effect c i s = s) ∨
    (∃ e, validationError (issue i s) = some e ∧ effect c i s = fail e (issue i s)) ∨
    (s.busy = false ∧ validationError (issue i s) = none ∧ ∃ X, effect c i s = unitDone i X s) := by
  cases hb : s.busy with
  | true => exact .inl ⟨rfl, effect_of_busy hb c i⟩
  | false =>
    cases hv : validationError (issue i s) with
    | some e => exact .inr (.inl ⟨e, rfl, effect_of_error hb hv c⟩)
    | none =>
      refine .inr (.inr ⟨rfl, rfl, ?_⟩)
      obtain rfl | rfl | rfl | rfl := hunit
      · exact ⟨_, command_eq_unitDone hv hb (by rw [uDbl_eq_storeUnit])⟩
      · exact ⟨_, command_eq_unitDone hv hb (uXor_dispatch_issue _ s)⟩
      · exact ⟨_, command_eq_unitDone hv hb (uCiph_dispatch_issue c _ s)⟩
      · exact ⟨_, command_eq_unitDone hv hb (uCiph_dispatch_issue c _ s)⟩

/-- Settles O10: the state in which a unit command ends, case by case. -/
theorem unitCommandsFrame : Obligations.UnitCommandsFrame := by
  unfold Obligations.UnitCommandsFrame
  intro i s t hunit hexec
  rw [exec_eq_effect, Host.Outcome.next.injEq] at hexec
  subst hexec
  obtain ⟨hb, he⟩ | ⟨e, hv, he⟩ | ⟨hb, hv, X, he⟩ := effect_unit_cases Config.cipher hunit s
  · simp [he]
  · simp [he]
  · have hother (a : Nat) (ha : a < blockOffset 0 ∨ blockOffset 0 + 16 ≤ a) :
        Memory.read (unitDone i X s).obuf a = Memory.read s.obuf a :=
      Memory.read_setBlock_other s.obuf (j := 0) X ha
    rw [he]
    refine ⟨by simp [unitDone], by simp [unitDone], hother, ?_, by simp [unitDone]⟩
    rintro (hbusy | ⟨e, herr⟩)
    · simp [hb] at hbusy
    · simp [hv] at herr

/-! ### What the host reads after a unit command -/

/-- The OBUF gate after a unit command: RLEN is 16. -/
theorem hostRead_unitDone {s : State} (h : Inv s) (i : Instr) (X : Block) {a : Addr} (hlo : 0x0800 ≤ a.toNat)
    (hhi : a.toNat ≤ 0x0FFF) :
    hostRead (unitDone i X s) a = if a.toNat ≤ 0x080F then byteOf X (a.toNat - 0x0800) else 0 := by
  rw [HostPort.hostRead_obuf _ hlo hhi]
  have hrlen : (unitDone i X s).rlen.toNat = 16 := rfl
  split
  · rw [HostPort.obufRead_of_lt_rlen rfl (by omega)]
    have hread := Memory.read_setBlock h.obuf_wf X (j := 0) (by decide) (show a.toNat - 0x0800 < 16 by omega)
    rwa [show blockOffset 0 = 0 from rfl, Nat.zero_add] at hread
  · exact HostPort.obufRead_of_rlen_le (by omega)

/-- Settles O9: each unit command ends with its result in Block 0. -/
theorem hostReadsUnitResult : Obligations.HostReadsUnitResult := by
  unfold Obligations.HostReadsUnitResult
  intro c s a h hb hcbs hlo hhi
  have hdbl : effect c .dbl s = unitDone .dbl (double (ib s 0)) s :=
    command_eq_unitDone (validationError_issue_dbl s) hb (by rw [uDbl_eq_storeUnit, ib_dispatch_issue])
  have hbxor : effect c .bxor s = unitDone .bxor (blockXor (ib s 0) (ib s 1)) s :=
    command_eq_unitDone (validationError_issue_bxor s) hb (uXor_dispatch_issue .bxor s)
  have hciphE : effect c .ciphE s = unitDone .ciphE (c.E (ib s 0)) s :=
    (cipher_command_of_cbs (i := .ciphE) rfl c hb hcbs).1
  have hciphD : effect c .ciphD s = unitDone .ciphD (c.D (ib s 0)) s :=
    (cipher_command_of_cbs (i := .ciphD) rfl c hb hcbs).1
  rw [hdbl, hbxor, hciphE, hciphD]
  simp only [hostRead_unitDone h _ _ hlo hhi, OperandUnits.byteOf_blockXor, and_self]

end Sys2Proof.Proofs.Frames

/-! The remaining laws of the pure functions: the doubler's (40_doubler R113), the adapter's (42_cipher_adapter R137) and
the transform's with the identity capability (44_transform R192); and the errors of VALIDATE beside those of the transform
(R167, 43_ltable R155). -/

namespace Sys2Proof.Proofs.PureLaws

open Sys2Proof.Machine Sys2Proof.Proofs.OperandUnits Sys2Proof.Proofs.LTable Sys2Proof.Proofs.Transform
  Sys2Proof.Proofs.CipherCommands Sys2Proof.Proofs.Validation

/-! ### The doubler -/

/-- What `double` XORs in, by the bit that is shifted out. -/
def reduction (b : Bool) : Block := if b then Config.rconst else 0

theorem double_eq_shift_xor (X : Block) : double X = (X <<< 1) ^^^ reduction (X.getLsbD 127) := rfl

theorem reduction_xor (a b : Bool) : reduction (a ^^ b) = reduction a ^^^ reduction b := by
  cases a <;> cases b <;> decide

theorem double_xor (A B : Block) : double (A ^^^ B) = double A ^^^ double B := by
  simp only [double_eq_shift_xor, shiftLeft_one_xor, BitVec.getLsbD_xor, reduction_xor]
  ac_rfl

/-- Bit 0 of `double X` is the bit that was shifted out, since RCONST is odd. -/
theorem getLsbD_zero_double (X : Block) : (double X).getLsbD 0 = X.getLsbD 127 := by
  rw [doubleMultipliesByX X 0 (by decide)]
  simp

/-- `halve` takes the reduction out, shifts back and puts the lost bit at the top. -/
theorem halve_eq (Y : Block) :
    halve Y = ((Y ^^^ reduction (Y.getLsbD 0)) >>> 1) ||| (if Y.getLsbD 0 then (1 : Block) <<< 127 else 0) := rfl

/-- The bit that `halve` puts at the top. -/
theorem getLsbD_topBit (b : Bool) {k : Nat} (hk : k < 128) :
    (if b then (1 : Block) <<< 127 else 0).getLsbD k = (decide (k = 127) && b) := by
  cases b with
  | false => simp
  | true =>
    by_cases h : k = 127
    · subst h; decide
    · have hlt : k < 127 := by omega
      rw [if_pos rfl, BitVec.getLsbD_shiftLeft, decide_eq_true hlt, decide_eq_false h]
      simp

theorem getLsbD_halve_top (Y : Block) : (halve Y).getLsbD 127 = Y.getLsbD 0 := by
  rw [halve_eq, BitVec.getLsbD_or, getLsbD_topBit _ (by decide), BitVec.getLsbD_ushiftRight,
    BitVec.getLsbD_of_ge _ (1 + 127) (by decide)]
  simp

theorem getLsbD_halve (Y : Block) {k : Nat} (hk : k < 127) :
    (halve Y).getLsbD k = (Y ^^^ reduction (Y.getLsbD 0)).getLsbD (k + 1) := by
  have hne : k ≠ 127 := by omega
  rw [halve_eq, BitVec.getLsbD_or, getLsbD_topBit _ (by omega), BitVec.getLsbD_ushiftRight, Nat.add_comm 1 k]
  simp [hne]

theorem halve_double (X : Block) : halve (double X) = X := by
  have hback : double X ^^^ reduction ((double X).getLsbD 0) = X <<< 1 := by
    rw [getLsbD_zero_double, double_eq_shift_xor, BitVec.xor_assoc, BitVec.xor_self, BitVec.xor_zero]
  apply BitVec.eq_of_getLsbD_eq
  intro k hk
  by_cases htop : k = 127
  · rw [htop, getLsbD_halve_top, getLsbD_zero_double]
  · have hk' : k + 1 < 128 := by omega
    rw [getLsbD_halve _ (by omega), hback, BitVec.getLsbD_shiftLeft]
    simp [hk']

theorem double_halve (Y : Block) : double (halve Y) = Y := by
  have hshift : halve Y <<< 1 = Y ^^^ reduction (Y.getLsbD 0) := by
    apply BitVec.eq_of_getLsbD_eq
    intro k hk
    cases k with
    | zero =>
      have hodd : (reduction (Y.getLsbD 0)).getLsbD 0 = Y.getLsbD 0 := by cases Y.getLsbD 0 <;> decide
      rw [BitVec.getLsbD_xor, hodd, Bool.xor_self]
      simp
    | succ k =>
      have hk' : k < 127 := by omega
      rw [← getLsbD_halve Y hk', BitVec.getLsbD_shiftLeft]
      simp [hk]
  rw [double_eq_shift_xor, getLsbD_halve_top, hshift, BitVec.xor_assoc, BitVec.xor_self, BitVec.xor_zero]

/-- Settles O23: the laws one by one; the powers of a function add. -/
theorem doubleLaws : Obligations.DoubleLaws := by
  unfold Obligations.DoubleLaws
  refine ⟨double_zero, double_xor, halve_double, double_halve, fun X h => ?_, fun X h => ?_,
    fun a b X => (Function.iterate_add_apply double a b X).symm⟩
  · rw [double_eq_shift_xor, topBit_eq_decide_byte15, decide_eq_false (by omega)]
    exact BitVec.xor_zero
  · rw [double_eq_shift_xor, topBit_eq_decide_byte15, decide_eq_true h]
    rfl

/-! ### The adapter -/

/-- Settles O25: the two directions are E and D. -/
theorem adapterDirectionsInvert : Obligations.AdapterDirectionsInvert := by
  unfold Obligations.AdapterDirectionsInvert
  exact fun c => ⟨fun X => ⟨bc_encrypt c X, bc_decrypt c X⟩,
    fun hc X => ⟨hc.decipher_encipher X, hc.encipher_decipher X⟩⟩

/-! ### The identity capability -/

/-- With the identity as block function the mask is ZERO, and the sum of the sum is the slot itself. -/
theorem mixSlots_id (T : Block) (xs : List Block) : mixSlots id T xs = xs := by
  have hmask (ys : List Block) : maskSlots 0 ys = ys := by
    induction ys with
    | nil => rfl
    | cons y ys ih => rw [maskSlots, double_zero, ih, blockXor_zero]
  cases xs with
  | nil => rfl
  | cons x xs => simp only [mixSlots, id, blockXor_self, hmask, absorb_absorb]

/-- Settles O31: the L-table is all ZERO, and each of the three layers is the identity. -/
theorem identityCipherTransform : Obligations.IdentityCipherTransform := by
  unfold Obligations.IdentityCipherTransform
  intro c T P d hE hD
  have hbc : bc c d = id := by
    funext X
    obtain rfl | rfl : d = 0 ∨ d = 1 := by revert d; decide
    · exact hE X
    · exact hD X
  have hlength := length_deriveMultipliers c P.length
  rw [transformBlocks_eq_layers, hbc, mixSlots_id]
  exact leaveSlots_enterSlots (B := id) (B' := id) (fun _ => rfl) hlength.symm

/-! ### The errors of the transform -/

/-- The checks that VALIDATE makes of an EME command, which makes all of them. -/
theorem validationError_eme {i : Instr} (heme : i = .emeE ∨ i = .emeD) (s : State) :
    validationError (issue i s) =
      if s.cbs ≠ Config.blk then some .invalidBlockSize
      else if s.tlen.toNat ≠ Config.twk then some .invalidTweakLength
      else if s.mlen.toNat = 0 ∨ s.mlen.toNat % Config.blk ≠ 0 then some .invalidMessageLength
      else if s.mlen.toNat / Config.blk = 0 ∨ s.mlen.toNat / Config.blk > Config.maxBlk then some .blockCountOutOfRange
      else none := by
  simp [validationError, func_of_eme heme, usesCipher, usesTweak, usesLength, blockCount]

/-- Settles O19: the two make the same checks in the same order. -/
theorem transformErrorsAreValidationErrors : Obligations.TransformErrorsAreValidationErrors := by
  unfold Obligations.TransformErrorsAreValidationErrors
  intro c i s e heme
  rw [validationError_eme heme, transform, Memory.length_readBytes]
  split_ifs <;> simp

/-- Settles O18: LGEN makes the checks of CBS and of MLEN. -/
theorem lgenErrorPrecedence : Obligations.LgenErrorPrecedence := by
  unfold Obligations.LgenErrorPrecedence
  intro s hb
  have htlen : usesTweak (issue .lgen s).func = true → (issue .lgen s).tlen = 16 := fun h => absurd h Bool.false_ne_true
  rw [← issue_cbs .lgen s, ← issue_mlen .lgen s]
  exact ⟨fun hcbs => exec_of_error hb (validationError_of_cbs_ne rfl hcbs),
    fun hcbs hmlen => exec_of_error hb (validationError_of_mlen_unaligned hcbs htlen rfl hmlen),
    fun hcbs hmod hmax => exec_of_error hb (validationError_of_mlen_gt hcbs htlen rfl hmod hmax)⟩

end Sys2Proof.Proofs.PureLaws

/-! The command byte as an event: codes and table words (30_encoding R92, 60_exceptions R215, 10_state R41), and the
step that takes a command event (log entries 1 and 10). -/

namespace Sys2Proof.Proofs.CommandEvent

open Sys2Proof.Machine Sys2Proof.Proofs.CommandByte

theorem tableByte_encode (i : Instr) : tableByte 8 (encode i).toNat = some (encode i) := by
  have hlt : (encode i).toNat < 256 := (encode i).isLt
  have hmod : (encode i).toNat % 2 ^ 8 = (encode i).toNat := Nat.mod_eq_of_lt hlt
  rw [tableByte, hmod, if_pos hlt, BitVec.ofNat_toNat, BitVec.setWidth_eq]

theorem decodeTableWord_encode (i : Instr) : decodeTableWord 8 (encode i).toNat = some i := by
  simp only [decodeTableWord, tableByte_encode, decode_encode]

/-- Settles O1: a byte of R93 is the encoding of its command, and decoding undoes encoding. -/
theorem commandBytesDecode : Obligations.CommandBytesDecode := by
  unfold Obligations.CommandBytesDecode
  exact ⟨decode_encode .dbl, decode_encode .bxor, decode_encode .ciphE, decode_encode .ciphD, decode_encode .lgen,
    decode_encode .emeE, decode_encode .emeD, fun i => ⟨decode_encode i, decodeTableWord_encode i⟩⟩

/-- Settles O3: the two tables, entry by entry. -/
theorem errorAndPhaseCodes : Obligations.ErrorAndPhaseCodes := ⟨rfl, rfl⟩

/-! ### The step of a command event -/

section
variable {s : State} {v : Byte} {rest : List Event} (hs : s.schedule = .command v :: rest)
include hs

theorem step_of_command {i : Instr} (hv : decode v = .ok i) : step s = exec i { s with schedule := rest } := by
  simp only [step, stepOver, hs, applyEvent, hv]

theorem step_of_illegal_command (hv : ∀ i, decode v ≠ .ok i) :
    step s = .next (hostWrite 0x1011 v { s with schedule := rest }) := by
  cases h : decode v with
  | ok i => exact absurd h (hv i)
  | error e => simp only [step, stepOver, hs, applyEvent, h]; rfl
end

theorem withFetchWord_encode (s : State) (i : Instr) :
    s.withFetchWord 8 (encode i).toNat = placeCommand (encode i) s := by
  have hmod : (encode i).toNat % 2 ^ 8 = (encode i).toNat := Nat.mod_eq_of_lt (encode i).isLt
  rw [State.withFetchWord, hmod, BitVec.ofNat_toNat, BitVec.setWidth_eq]

/-- Settles O4: the step of a command event, the placed event, and `exec` as the effect, which a busy machine drops. -/
theorem stepRunsDecodedCommand : Obligations.StepRunsDecodedCommand := by
  unfold Obligations.StepRunsDecodedCommand
  refine ⟨fun s v rest hs => ⟨fun i hv => step_of_command hs hv, step_of_illegal_command hs⟩, fun s i => ?_,
    exec_eq_effect, fun i s hb => ?_⟩
  · rw [withFetchWord_encode, step_of_command (placeCommand_schedule (encode i) s) (decode_encode i)]
    rfl
  · rw [exec_eq_effect, effect_of_busy hb]

end Sys2Proof.Proofs.CommandEvent

/-! Host programs (30_encoding R98, R99, 45_handle R202): a register reads back what was written to it, the statements
SETTWEAK and SETMSG load the operands, and a whole call returns the transform. -/

namespace Sys2Proof.Proofs.HostPrograms

open Sys2Proof.Machine Sys2Proof.Proofs.HostPort Sys2Proof.Proofs.Validation Sys2Proof.Proofs.Invariant
  Sys2Proof.Proofs.CommandResults Sys2Proof.Proofs.CommandEvent

/-! ### A host read sees one register only -/

section
variable (s : State) {b : Addr}

theorem hostRead_of_ibuf_update (mem : Memory) (h : 0x0800 ≤ b.toNat) :
    hostRead { s with ibuf := mem } b = hostRead s b := by
  have hlt : ¬ b.toNat < 0x0800 := by omega
  simp only [hostRead, hlt, if_false, obufRead, statusByte]

theorem hostRead_of_tweak_update (X : Block) (h : b.toNat < 0x1000 ∨ 0x1010 ≤ b.toNat) :
    hostRead { s with tweak := X } b = hostRead s b := by
  obtain h | h := h
  · simp only [hostRead, h, if_true, obufRead]
  · have hlt : ¬ b.toNat ≤ 0x100F := by omega
    simp only [hostRead, hlt, if_false, obufRead, statusByte]

theorem hostRead_of_tlen_update (v : Byte) (h : b ≠ 0x1010) : hostRead { s with tlen := v } b = hostRead s b := by
  have hne : b.toNat ≠ 0x1010 := fun he => h (BitVec.eq_of_toNat_eq he)
  simp only [hostRead, hne, if_false, obufRead, statusByte]

theorem hostRead_of_mlen_update (w : BitVec 16) (h : b ≠ 0x1012) (h' : b ≠ 0x1013) :
    hostRead { s with mlen := w } b = hostRead s b := by
  have hne : b.toNat ≠ 0x1012 := fun he => h (BitVec.eq_of_toNat_eq he)
  have hne' : b.toNat ≠ 0x1013 := fun he => h' (BitVec.eq_of_toNat_eq he)
  simp only [hostRead, hne, hne', if_false, obufRead, statusByte]
end

/-! ### Reading back -/

section
variable {s : State} (hb : s.busy = false) {a : Addr} (b : Addr) (v : Byte)
include hb

theorem hostRead_hostWrite_ibuf (h : Inv s) (ha : a.toNat ≤ 0x07FF) :
    hostRead (hostWrite a v s) b = if b = a then v else hostRead s b := by
  rw [hostWrite_ibuf hb v ha]
  split
  · rename_i he
    rw [he, hostRead_ibuf _ ha, Memory.read_write_self h.ibuf_wf]
  · rename_i hne
    by_cases hlt : b.toNat ≤ 0x07FF
    · rw [hostRead_ibuf _ hlt, hostRead_ibuf _ hlt]
      exact Memory.read_write_other _ _ fun he => hne (BitVec.eq_of_toNat_eq he)
    · exact hostRead_of_ibuf_update s _ (by omega)

theorem hostRead_hostWrite_tweak (hlo : 0x1000 ≤ a.toNat) (hhi : a.toNat ≤ 0x100F) :
    hostRead (hostWrite a v s) b = if b = a then v else hostRead s b := by
  rw [hostWrite_tweak hb v hlo hhi]
  by_cases hrange : 0x1000 ≤ b.toNat ∧ b.toNat ≤ 0x100F
  · have hiff : b.toNat - 0x1000 = a.toNat - 0x1000 ↔ b = a :=
      ⟨fun he => BitVec.eq_of_toNat_eq (by omega), fun he => by rw [he]⟩
    rw [hostRead_tweak _ hrange.1 hrange.2, hostRead_tweak _ hrange.1 hrange.2,
      byteOf_setByte _ _ _ _ (by omega) (by omega)]
    simp only [hiff]
  · have hne : b ≠ a := by
      rintro rfl
      exact hrange ⟨hlo, hhi⟩
    rw [if_neg hne, hostRead_of_tweak_update s _ (by omega)]

theorem hostRead_hostWrite_tlen :
    hostRead (hostWrite 0x1010 v s) b = if b = 0x1010 then v else hostRead s b := by
  rw [hostWrite_tlen hb]
  split
  · rename_i he; rw [he]; rfl
  · rename_i hne; exact hostRead_of_tlen_update s v hne

theorem hostRead_hostWrite_mlen_low :
    hostRead (hostWrite 0x1012 v s) b = if b = 0x1012 then v else hostRead s b := by
  rw [hostWrite_mlen_low hb]
  obtain ⟨hlow, hhigh⟩ := bytes_of_replaceLow s.mlen v
  split
  · rename_i he; rw [he]; exact hlow
  · rename_i hne
    by_cases hother : b = 0x1013
    · rw [hother]; exact hhigh
    · exact hostRead_of_mlen_update s _ hne hother

theorem hostRead_hostWrite_mlen_high :
    hostRead (hostWrite 0x1013 v s) b = if b = 0x1013 then v else hostRead s b := by
  rw [hostWrite_mlen_high hb]
  obtain ⟨hlow, hhigh⟩ := bytes_of_replaceHigh s.mlen v
  split
  · rename_i he; rw [he]; exact hhigh
  · rename_i hne
    by_cases hother : b = 0x1012
    · rw [hother]; exact hlow
    · exact hostRead_of_mlen_update s _ hother hne
end

/-- Settles O48, register by register. -/
theorem hostReadsBackWrites : Obligations.HostReadsBackWrites := by
  unfold Obligations.HostReadsBackWrites
  rintro s a b v h hb (ha | ⟨hlo, hhi⟩ | rfl | rfl)
  · exact hostRead_hostWrite_ibuf hb b v h ha
  · by_cases htlen : a.toNat = 0x1010
    · obtain rfl : a = 0x1010 := BitVec.eq_of_toNat_eq htlen
      exact hostRead_hostWrite_tlen hb b v
    · exact hostRead_hostWrite_tweak hb b v hlo (by omega)
  · exact hostRead_hostWrite_mlen_low hb b v
  · exact hostRead_hostWrite_mlen_high hb b v

/-! ### Loading a buffer byte by byte -/

theorem readBytes_writeBytes {mem : Memory} (h : Memory.wf mem = true) {a : Nat} (bs : List Byte)
    (ha : a + bs.length ≤ Config.bufBytes) : Memory.readBytes (Memory.writeBytes mem a bs) a bs.length = bs := by
  refine List.ext_getElem? fun i => ?_
  rw [Memory.getElem?_readBytes]
  split
  · rename_i hi
    rw [Memory.read_writeBytes h bs ha hi, List.getElem?_eq_getElem hi]
  · rename_i hi
    rw [List.getElem?_eq_none (by omega)]

/-- `X` with the bytes `bs` in place from byte `k` up. -/
def setBytes : Block → Nat → List Byte → Block
  | X, _, [] => X
  | X, k, b :: bs => setBytes (setByte X k b) (k + 1) bs

theorem byteOf_setBytes (X : Block) {k : Nat} (bs : List Byte) (hk : k + bs.length ≤ 16) {i : Nat} (hi : i < 16) :
    byteOf (setBytes X k bs) i = if k ≤ i ∧ i < k + bs.length then bs[i - k]?.getD 0 else byteOf X i := by
  induction bs generalizing X k with
  | nil => rw [if_neg (by simp)]; rfl
  | cons b bs ih =>
    rw [List.length_cons] at hk ⊢
    rw [setBytes, ih _ (by omega), byteOf_setByte _ _ _ _ (by omega) hi]
    by_cases he : i = k
    · rw [if_neg (by omega), if_pos he, if_pos (by omega), he, Nat.sub_self]
      rfl
    · rw [if_neg he]
      by_cases hin : k + 1 ≤ i ∧ i < k + 1 + bs.length
      · have hsub : i - k = (i - (k + 1)) + 1 := by omega
        rw [if_pos hin, if_pos (by omega), hsub, List.getElem?_cons_succ]
      · rw [if_neg hin, if_neg (by omega)]

/-- Sixteen bytes replace the whole Block. -/
theorem setBytes_eq_blockOfBytes (X : Block) {bs : List Byte} (h : bs.length = 16) :
    setBytes X 0 bs = blockOfBytes bs := by
  apply block_ext_bytes
  intro i hi
  rw [byteOf_setBytes X bs (by omega) hi, byteOf_blockOfBytes bs i hi, if_pos (by omega), Nat.sub_zero]

theorem toNat_add_one {a : Addr} (h : a.toNat + 1 < 8192) : (a + 1).toNat = a.toNat + 1 := by
  rw [BitVec.toNat_add]
  exact Nat.mod_eq_of_lt h

/-! ### The statements of R99 -/

theorem run_wrb_ibuf {bs : List Byte} {a : Addr} {s : State} {rest : List Event} (hb : s.busy = false)
    (ha : a.toNat + bs.length ≤ 2048) (hs : s.schedule = wrb a bs ++ rest) :
    Host.Core.run Sys2Proof.core bs.length s =
      .next { s with ibuf := Memory.writeBytes s.ibuf a.toNat bs, schedule := rest } := by
  induction bs generalizing a s with
  | nil => rw [← show s.schedule = rest from hs]; rfl
  | cons b bs ih =>
    rw [List.length_cons] at ha
    let t : State := { s with ibuf := Memory.write s.ibuf a.toNat b, schedule := wrb (a + 1) bs ++ rest }
    have hstep : step s = .next t :=
      (step_of_write hs).trans (congrArg Host.Outcome.next (hostWrite_ibuf (by exact hb) b (by omega)))
    have hnext : (a + 1).toNat = a.toNat + 1 := toNat_add_one (by omega)
    have hrest := ih (a := a + 1) (s := t) hb (by omega) rfl
    rw [hnext] at hrest
    exact (run_succ hstep _).trans hrest

theorem run_wrb_tweak {bs : List Byte} {a : Addr} {k : Nat} {s : State} {rest : List Event} (hb : s.busy = false)
    (ha : a.toNat = 0x1000 + k) (hk : k + bs.length ≤ 16) (hs : s.schedule = wrb a bs ++ rest) :
    Host.Core.run Sys2Proof.core bs.length s =
      .next { s with tweak := setBytes s.tweak k bs, schedule := rest } := by
  induction bs generalizing a k s with
  | nil => rw [← show s.schedule = rest from hs]; rfl
  | cons b bs ih =>
    rw [List.length_cons] at hk
    let t : State := { s with tweak := setByte s.tweak k b, schedule := wrb (a + 1) bs ++ rest }
    have hoffset : a.toNat - 0x1000 = k := by omega
    have hstep : step s = .next t := by
      rw [step_of_write hs, hostWrite_tweak (by exact hb) b (by omega) (by omega), hoffset]
      rfl
    have hnext : (a + 1).toNat = a.toNat + 1 := toNat_add_one (by omega)
    exact (run_succ hstep _).trans (ih (a := a + 1) (s := t) hb (by omega) (by omega) rfl)

/-- The two bytes of a 16-bit register are the register. -/
theorem eq_of_bytes_eq {m n : BitVec 16} (hlow : m.extractLsb' 0 8 = n.extractLsb' 0 8)
    (hhigh : m.extractLsb' 8 8 = n.extractLsb' 8 8) : m = n := by
  have h (k : BitVec 16) : k = k.extractLsb' 8 8 ++ k.extractLsb' 0 8 := by
    rw [BitVec.extractLsb'_append_extractLsb'_eq_extractLsb' (show 8 = 0 + 8 from rfl), BitVec.extractLsb'_eq_self]
  rw [h m, h n, hlow, hhigh]

theorem run_setMlen {n : BitVec 16} {s : State} {rest : List Event} (hb : s.busy = false)
    (hs : s.schedule = setMlen n ++ rest) :
    Host.Core.run Sys2Proof.core (setMlen n).length s = .next { s with mlen := n, schedule := rest } := by
  let w : BitVec 16 := (s.mlen &&& 0xFF00) ||| (n.extractLsb' 0 8).zeroExtend 16
  let t : State := { s with mlen := w, schedule := .write 0x1013 (n.extractLsb' 8 8) :: rest }
  have hlow : step s = .next t :=
    (step_of_write hs).trans (congrArg Host.Outcome.next (hostWrite_mlen_low (by exact hb) _))
  have hboth : (w &&& 0x00FF) ||| ((n.extractLsb' 8 8).zeroExtend 16 <<< 8) = n := by
    obtain ⟨hw, -⟩ := bytes_of_replaceLow s.mlen (n.extractLsb' 0 8)
    obtain ⟨hkept, hnew⟩ := bytes_of_replaceHigh w (n.extractLsb' 8 8)
    exact eq_of_bytes_eq (hkept.trans hw) hnew
  have hhigh : step t = .next { s with mlen := n, schedule := rest } := by
    refine (step_of_write rfl).trans (congrArg Host.Outcome.next ?_)
    rw [hostWrite_mlen_high (by exact hb), hboth]
  exact (run_succ hlow 1).trans (run_succ hhigh 0)

@[simp] theorem length_wrb (a : Addr) (bs : List Byte) : (wrb a bs).length = bs.length := by
  induction bs generalizing a with
  | nil => rfl
  | cons b bs ih => rw [wrb, List.length_cons, ih, List.length_cons]

/-- `SETMSG h`. -/
theorem run_setMsg {h : List Byte} {s : State} {rest : List Event} (hb : s.busy = false) (hh : h.length ≤ 2048)
    (hs : s.schedule = setMsg h ++ rest) :
    Host.Core.run Sys2Proof.core (setMsg h).length s =
      .next { s with ibuf := Memory.writeBytes s.ibuf 0 h, mlen := BitVec.ofNat 16 h.length, schedule := rest } := by
  have hsplit : s.schedule = wrb 0 h ++ (setMlen (BitVec.ofNat 16 h.length) ++ rest) := by
    rw [hs, setMsg, List.append_assoc]
  have hbytes := run_wrb_ibuf hb (a := 0) (by simpa using hh) hsplit
  rw [setMsg, List.length_append, length_wrb]
  exact (run_add hbytes _).trans (run_setMlen hb rfl)

/-- `SETTWEAK h`. -/
theorem run_setTweak {h : List Byte} {s : State} {rest : List Event} (hb : s.busy = false) (hh : h.length = 16)
    (hs : s.schedule = setTweak h ++ rest) :
    Host.Core.run Sys2Proof.core (setTweak h).length s =
      .next { s with tweak := blockOfBytes h, tlen := 16, schedule := rest } := by
  have hsplit : s.schedule = wrb 0x1000 h ++ ([.write 0x1010 16] ++ rest) := by rw [hs, setTweak, List.append_assoc]
  have hbytes := run_wrb_tweak hb (a := 0x1000) (k := 0) rfl (by omega) hsplit
  rw [setBytes_eq_blockOfBytes _ hh] at hbytes
  let t : State := { s with tweak := blockOfBytes h, schedule := [.write 0x1010 16] ++ rest }
  have htlen : step t = .next { s with tweak := blockOfBytes h, tlen := 16, schedule := rest } :=
    (step_of_write rfl).trans (congrArg Host.Outcome.next (hostWrite_tlen (by exact hb) 16))
  rw [setTweak, List.length_append, length_wrb]
  exact (run_add hbytes 1).trans (run_succ htlen 0)

theorem toNat_ofNat_length {h : List Byte} (hh : h.length ≤ 2048) : (BitVec.ofNat 16 h.length).toNat = h.length := by
  rw [BitVec.toNat_ofNat, Nat.mod_eq_of_lt (by omega)]

/-- Settles O50: the transactions of SETMSG write the bytes from 0 up and then MLEN. -/
theorem setMessageLoadsBuffer : Obligations.SetMessageLoadsBuffer := by
  unfold Obligations.SetMessageLoadsBuffer
  intro h s hI hb hh hs
  have hrun := run_setMsg (rest := []) hb hh (by rw [hs, List.append_nil])
  refine ⟨_, hrun, ?_, fun a ha => ?_, toNat_ofNat_length hh, rfl⟩
  · exact readBytes_writeBytes hI.ibuf_wf h (by simpa using hh)
  · exact Memory.read_writeBytes_other _ _ (.inr (by simpa using ha))

/-! ### A whole call -/

/-- The state in which the host has loaded the operands of a call (45_handle R202), with `rest` still to come. -/
def loaded (tweak msg : List Byte) (rest : List Event) (s : State) : State :=
  { s with
    tweak := blockOfBytes tweak, tlen := 16, ibuf := Memory.writeBytes s.ibuf 0 msg,
    mlen := BitVec.ofNat 16 msg.length, schedule := rest }

theorem run_loads {tweak msg : List Byte} {s : State} {rest : List Event} (hb : s.busy = false)
    (htweak : tweak.length = 16) (hmsg : msg.length ≤ 2048)
    (hs : s.schedule = setTweak tweak ++ (setMsg msg ++ rest)) :
    Host.Core.run Sys2Proof.core ((setTweak tweak).length + (setMsg msg).length) s =
      .next (loaded tweak msg rest s) :=
  (run_add (run_setTweak hb htweak hs) _).trans (run_setMsg hb hmsg rfl)

/-- Settles O51: with the operands loaded, the EME command writes the transform where the host reads it. -/
theorem hostCallReturnsTransform : Obligations.HostCallReturnsTransform := by
  unfold Obligations.HostCallReturnsTransform
  intro tweak msg m i s hI hb hcbs heme htweak hmin hmax hmsg hs
  have hmlen := toNat_ofNat_length (h := msg) (by omega)
  have hload := run_loads (rest := [.command (encode i)]) hb htweak (msg := msg) (by omega)
    (by rw [hs, callEvents, List.append_assoc])
  have hI' : Inv (loaded tweak msg [] s) := inv_of_eq_machine (inv_of_run hI hload) rfl
  have hstep : step (loaded tweak msg [.command (encode i)] s) = exec i (loaded tweak msg [] s) :=
    step_of_command rfl (CommandByte.decode_encode i)
  obtain ⟨t, hexec, htransform, hrlen, herr, hbusy, hdone, -⟩ := exec_eme heme hI' hb hcbs rfl
    (by simp only [loaded, hmlen]; omega) (by simp only [loaded, hmlen]; omega) (by simp only [loaded, hmlen]; omega)
  have hrun : Host.Core.run Sys2Proof.core (callEvents tweak msg i).length s = .next t := by
    rw [callEvents, List.length_append, List.length_append]
    exact (run_add hload 1).trans (run_succ (hstep.trans hexec) 0)
  have hread : Memory.readBytes (loaded tweak msg [] s).ibuf 0 msg.length = msg :=
    readBytes_writeBytes hI.ibuf_wf msg (by simp only [Config.bufBytes]; omega)
  have hrlen' : t.rlen.toNat = msg.length := by rw [hrlen]; exact hmlen
  simp only [show (loaded tweak msg [] s).mlen.toNat = msg.length from hmlen, hread] at htransform
  refine ⟨t, _, hrun, htransform, Memory.length_readBytes _ _ _, herr, hrlen', hbusy, hdone, fun o ho => ?_⟩
  have haddr : (BitVec.ofNat 13 (0x0800 + o)).toNat = 0x0800 + o := by
    rw [BitVec.toNat_ofNat, Nat.mod_eq_of_lt (by omega)]
  rw [Memory.getElem?_readBytes, if_pos ho, hostRead_obuf _ (by omega) (by omega), haddr, Nat.add_sub_cancel_left,
    obufRead_of_lt_rlen hbusy (by omega), Nat.zero_add]

end Sys2Proof.Proofs.HostPrograms

/-! The lock (20_memory R71, 70_reset_and_hazards R262): a micro-step neither reads nor writes the host's side of the
state, and while BUSY a host transaction changes nothing else. -/

namespace Sys2Proof.Proofs.Lock

open Sys2Proof.Machine Sys2Proof.Proofs.HostPort Sys2Proof.Proofs.SequencerStep

/-- The machine of `s` with another schedule and another record of reads. -/
def withHost (evs : List Event) (r : List Byte) (s : State) : State := { s with schedule := evs, reads := r }

section
variable (evs : List Event) (r : List Byte)

theorem validate_withHost (s : State) : validate (withHost evs r s) = withHost evs r (validate s) := by
  have hv : validationError (withHost evs r s) = validationError s := rfl
  obtain ⟨hn, he⟩ | ⟨e, hn, he⟩ := validate_cases s
  · rw [he, validate_of_none (hv.trans hn)]; rfl
  · rw [he, validate_of_some (hv.trans hn)]; rfl

/-- A rule of the sequencer and a change of the host's side commute. -/
theorem phaseRule_withHost (c : Cipher) (p : Phase) (s : State) :
    phaseRule c p (withHost evs r s) = withHost evs r (phaseRule c p s) := by
  cases p with
  | validate => exact validate_withHost evs r s
  | lGen | p1 | mpAcc | p2 | cccAcc | p3 => apply State.ext <;> simp [phaseRule, withHost, ib, ob, ltBlock]
  | _ => rfl

theorem seqStep_withHost {c : Cipher} {s t : State} (h : seqStep c s = .next t) :
    seqStep c (withHost evs r s) = .next (withHost evs r t) := by
  obtain ⟨hready, rfl⟩ := seqStep_eq_next_iff.mp h
  exact seqStep_eq_next_iff.mpr ⟨hready, phaseRule_withHost evs r c s.phase s⟩
end

/-- While BUSY an event that is neither a micro-step nor a reset is taken off the schedule and changes nothing but the
record of reads. -/
theorem step_of_busy {e : Event} (hseq : e ≠ .seq) (hreset : ∀ d, e ≠ .reset d) {s : State} (hb : s.busy = true)
    (rest : List Event) (r : List Byte) :
    ∃ r', step (withHost (e :: rest) r s) = .next (withHost rest r' s) := by
  have hb' : (withHost rest r s).busy = true := hb
  cases e with
  | seq => exact absurd rfl hseq
  | reset d => exact absurd rfl (hreset d)
  | read a => exact ⟨_, step_of_read rfl⟩
  | write a v => exact ⟨r, (step_of_write rfl).trans (congrArg _ (hostWrite_of_busy hb' a v))⟩
  | command v =>
    refine ⟨r, ?_⟩
    cases hv : decode v with
    | ok i =>
      rw [CommandEvent.step_of_command rfl hv, exec_eq_effect]
      exact congrArg _ (effect_of_busy hb' _ i)
    | error err =>
      rw [CommandEvent.step_of_illegal_command rfl (by simp [hv])]
      exact congrArg _ (hostWrite_of_busy hb' _ v)

/-- A scheduled micro-step is the sequencer's own. -/
theorem step_of_seq {s t : State} (h : seqStep Config.cipher s = .next t) (rest : List Event) (r : List Byte) :
    step (withHost (.seq :: rest) r s) = .next (withHost rest r t) :=
  Eq.trans (b := seqStep Config.cipher (withHost rest r s)) rfl (seqStep_withHost rest r h)

/-- The interleaved run, with the sequencer's part of the state kept apart from the host's. -/
theorem run_interleaved {evs : List Event} (hreset : ∀ d, .reset d ∉ evs) {s t : State} (r : List Byte)
    (hbusy : ∀ n ≤ evs.count .seq, ∃ u, seqRun Config.cipher n s = .next u ∧ u.busy = true)
    (hrun : seqRun Config.cipher (evs.count .seq + 1) s = .next t) :
    ∃ r', Host.Core.run Sys2Proof.core (evs.length + 1) (withHost (evs ++ [.seq]) r s) = .next (withHost [] r' t) := by
  induction evs generalizing s r with
  | nil =>
    obtain ⟨u, hs, hu⟩ := exists_of_seqRun_succ hrun
    cases hu
    exact ⟨r, run_succ (step_of_seq hs [] r) 0⟩
  | cons e evs ih =>
    have hreset' : ∀ d, .reset d ∉ evs := fun d hd => hreset d (List.mem_cons_of_mem e hd)
    by_cases he : e = .seq
    · subst he
      rw [List.count_cons_self] at hbusy hrun
      obtain ⟨u, hs, hrest⟩ := exists_of_seqRun_succ hrun
      have hbusy' : ∀ n ≤ evs.count .seq, ∃ v, seqRun Config.cipher n u = .next v ∧ v.busy = true := fun n hn => by
        rw [← seqRun_succ hs]
        exact hbusy (n + 1) (by omega)
      obtain ⟨r', hr⟩ := ih hreset' r hbusy' hrest
      exact ⟨r', (run_succ (step_of_seq hs (evs ++ [.seq]) r) _).trans hr⟩
    · have hb : s.busy = true := by
        obtain ⟨u, hu, hb⟩ := hbusy 0 (Nat.zero_le _)
        cases hu
        exact hb
      obtain ⟨r', hstep⟩ := step_of_busy he (fun d hd => hreset d (hd ▸ List.mem_cons_self)) hb (evs ++ [.seq]) r
      rw [List.count_cons_of_ne (by simpa using he)] at hbusy hrun
      obtain ⟨r'', hrest⟩ := ih hreset' r' hbusy hrun
      exact ⟨r'', (run_succ hstep _).trans hrest⟩

/-- Settles O52: while BUSY the host's events change nothing, and the last micro-step is the sequencer's own. -/
theorem lockMakesInterleavingIrrelevant : Obligations.LockMakesInterleavingIrrelevant := by
  unfold Obligations.LockMakesInterleavingIrrelevant
  intro evs s t hreset hs hbusy hrun
  obtain ⟨r, hr⟩ := run_interleaved hreset s.reads hbusy hrun
  have hstart : withHost (evs ++ [.seq]) s.reads s = s := by rw [← hs]; rfl
  rw [hstart] at hr
  exact ⟨r, hr⟩

end Sys2Proof.Proofs.Lock
